-- ==== Sys2Proof/Word.lean ====
section
/-! DEFINITION. The word types of the GF256-AES unit (00_scope.md R9, R10; 10_state.md R21). -/

namespace Sys2Proof

/-- A byte: an entry of `S`, `R`, `FWD`, `INV`, `RK` or `DMEM` (10_state.md R34 (f)). -/
abbrev Byte := BitVec 8

/-- The contents of a polynomial register, `PW` = 16 bits (10_state.md R21). -/
abbrev PolyWord := BitVec 16

/-- A command word, `CMD_W` = 32 bits (30_encoding.md R70). -/
abbrev CommandWord := BitVec 32

/-- A word of the register read port, 32 bits (10_state.md R35). -/
abbrev PortWord := BitVec 32

/-- A polynomial over GF(2): bit `i` of the number is the coefficient of `x^i`, and no width bounds it
(00_scope.md R10). -/
abbrev Poly := Nat

end Sys2Proof
end

