-- ==== Sys2Proof/Syntax.lean ====
section
/-! DEFINITION. The 41 commands of 30_encoding.md R74, one constructor for each row of the opcode table.
Operands are the fields of R71 to R73: what a field cannot encode no term can say, but for `CFG`, whose immediate is
written as the table writes it, 16 bits, and checked in WellFormed.lean. -/

namespace Sys2Proof

/-- A polynomial register number, `p0` to `p7` (R72: the field values 8 to 15 are not registers). -/
abbrev Reg := Fin 8

/-- A flat index into the state matrix, 0 to 15 (R73; 10_state.md R27). -/
abbrev FlatIndex := Fin 16

/-- A DMEM byte address, 0 to 255 (R73; 20_memory.md R66). -/
abbrev Addr := BitVec 8

/-- The 6-bit `len` field: a byte count, 0 to 63 (R73). -/
abbrev Len := Fin 64

inductive Instr where
  /-- `NOP` (60_exceptions.md R246). -/
  | nop
  /-- `GF.LI pd, imm16` (40_gf256.md R110). -/
  | gfLi (d : Reg) (imm : BitVec 16)
  /-- `GF.MOV pd, pa` (R111). -/
  | gfMov (d a : Reg)
  /-- `GF.ADD pd, pa, pb` (R112). -/
  | gfAdd (d a b : Reg)
  /-- `GF.DEG pd, pa` (R113). -/
  | gfDeg (d a : Reg)
  /-- `GF.DIV pd, pa, pb` (R114). -/
  | gfDiv (d a b : Reg)
  /-- `GF.REM pd, pa, pb` (R115). -/
  | gfRem (d a b : Reg)
  /-- `GF.MUL pd, pa, pb` (R116). -/
  | gfMul (d a b : Reg)
  /-- `GF.XGCD pd, pa, pb` (R117). -/
  | gfXgcd (d a b : Reg)
  /-- `GF.INV pd, pa` (R118). -/
  | gfInv (d a : Reg)
  /-- `GF.CMP pd, pa, pb` (R119). -/
  | gfCmp (d a b : Reg)
  /-- `GF.LDB pd, addr` (R120). -/
  | gfLdb (d : Reg) (addr : Addr)
  /-- `GF.STB ps, addr` (R121); the source stands in the `r` field. -/
  | gfStb (r : Reg) (addr : Addr)
  /-- `SEED.LO imm16` (41_sbox.md R136). -/
  | seedLo (imm : BitVec 16)
  /-- `SEED.HI imm16` (R137). -/
  | seedHi (imm : BitVec 16)
  /-- `SB.BUILD` (R138). -/
  | sbBuild
  /-- `SB.FWD pd, pa` (R139). -/
  | sbFwd (d a : Reg)
  /-- `SB.INV pd, pa` (R140). -/
  | sbInv (d a : Reg)
  /-- `SB.AFF pd, pa` (R141). -/
  | sbAff (d a : Reg)
  /-- `SB.BREV pd, pa` (R142). -/
  | sbBrev (d a : Reg)
  /-- `ST.LD addr, len` (42_state_rounds.md R157). -/
  | stLd (addr : Addr) (len : Len)
  /-- `ST.ST addr, len` (R158). -/
  | stSt (addr : Addr) (len : Len)
  /-- `ST.GET pd, idx` (R159). -/
  | stGet (d : Reg) (idx : FlatIndex)
  /-- `ST.SET ps, idx` (R160); the source stands in the `r` field. -/
  | stSet (r : Reg) (idx : FlatIndex)
  /-- `SUBBYTES` (R161). -/
  | subbytes
  /-- `ISUBBYTES` (R162). -/
  | isubbytes
  /-- `SHIFTROWS` (R163). -/
  | shiftrows
  /-- `ISHIFTROWS` (R164). -/
  | ishiftrows
  /-- `MIXCOLS` (R165). -/
  | mixcols
  /-- `IMIXCOLS` (R166). -/
  | imixcols
  /-- `ARK k` (R167): `k` is the 4-bit field of format X. -/
  | ark (k : Fin 16)
  /-- `ARKM addr, len` (R168). -/
  | arkm (addr : Addr) (len : Len)
  /-- `CFG imm16` (43_keyschedule.md R186): KS in bits 1:0, MODE in bits 4:2, bits 15:5 required zero. -/
  | cfg (imm : BitVec 16)
  /-- `KEXP addr, len` (R187). -/
  | kexp (addr : Addr) (len : Len)
  /-- `RK.ST addr, k` (R188): `k` stands in the 6-bit `len` field. -/
  | rkSt (addr : Addr) (k : Fin 64)
  /-- `ENCB` (44_cipher.md R203). -/
  | encb
  /-- `DECB` (R204). -/
  | decb
  /-- `CH.INIT` (45_chaining.md R216). -/
  | chInit
  /-- `CH.ENC` (R217). -/
  | chEnc
  /-- `CH.DEC` (R218). -/
  | chDec
  /-- `CH.ST addr` (R219). -/
  | chSt (addr : Addr)
  deriving DecidableEq, Repr

end Sys2Proof
end

