-- ==== Sys2Proof/WellFormed.lean ====
section
/-! DEFINITION. When a term of `Instr` is a command the unit has (30_encoding.md R71 to R75). The operand types carry
every bound but one. -/

namespace Sys2Proof

/-- The one check the operand types leave: `CFG` has `imm16[15:5]` zero (R75; 43_keyschedule.md R186). -/
def Instr.wellFormed : Instr → Bool
  | .nop => true
  | .gfLi _ _ => true
  | .gfMov _ _ => true
  | .gfAdd _ _ _ => true
  | .gfDeg _ _ => true
  | .gfDiv _ _ _ => true
  | .gfRem _ _ _ => true
  | .gfMul _ _ _ => true
  | .gfXgcd _ _ _ => true
  | .gfInv _ _ => true
  | .gfCmp _ _ _ => true
  | .gfLdb _ _ => true
  | .gfStb _ _ => true
  | .seedLo _ => true
  | .seedHi _ => true
  | .sbBuild => true
  | .sbFwd _ _ => true
  | .sbInv _ _ => true
  | .sbAff _ _ => true
  | .sbBrev _ _ => true
  | .stLd _ _ => true
  | .stSt _ _ => true
  | .stGet _ _ => true
  | .stSet _ _ => true
  | .subbytes => true
  | .isubbytes => true
  | .shiftrows => true
  | .ishiftrows => true
  | .mixcols => true
  | .imixcols => true
  | .ark _ => true
  | .arkm _ _ => true
  | .cfg imm => imm.extractLsb' 5 11 == 0#11
  | .kexp _ _ => true
  | .rkSt _ _ => true
  | .encb => true
  | .decb => true
  | .chInit => true
  | .chEnc => true
  | .chDec => true
  | .chSt _ => true

/-- `i` is a command the unit has. -/
abbrev Instr.WellFormed (i : Instr) : Prop := i.wellFormed = true

end Sys2Proof
end

