-- ==== Sys2Proof/Decode.lean ====
section
/-! DEFINITION. The decoder, total on every 32-bit word, and the encoder (30_encoding.md R70 to R78). A command is one
32-bit word on the command port (R70; 70_reset_and_hazards.md R264); no byte order exists for it (R64), since commands
are fetched from no memory. -/

namespace Sys2Proof

/-- Field `rd` (also `r`), word[23:20]; bit 23 is in every mask that has the field, so three bits are left (R71, R72). -/
def fieldRd (w : CommandWord) : Reg := (w.extractLsb' 20 3).toFin

/-- Field `ra`, word[19:16], with bit 19 in the mask (R71, R72). -/
def fieldRa (w : CommandWord) : Reg := (w.extractLsb' 16 3).toFin

/-- Field `rb`, word[15:12], with bit 15 in the mask (R71, R72). -/
def fieldRb (w : CommandWord) : Reg := (w.extractLsb' 12 3).toFin

/-- Field `imm16`, word[15:0], taken as it stands (R71, R73). -/
def fieldImm (w : CommandWord) : BitVec 16 := w.extractLsb' 0 16

/-- Field `addr`, word[7:0] (R71). -/
def fieldAddr (w : CommandWord) : Addr := w.extractLsb' 0 8

/-- Field `len`, word[13:8], which is `k` in `RK.ST` (R71). -/
def fieldLen (w : CommandWord) : Len := (w.extractLsb' 8 6).toFin

/-- Field `idx` of format RX and `k` of format X, word[3:0] (R71). -/
def fieldIdx (w : CommandWord) : Fin 16 := (w.extractLsb' 0 4).toFin

/-- One row of the opcode map: `w` is the command of the row when `w & mask == match` (R74). -/
structure Row where
  /-- The row's mnemonic. -/
  mnemonic : String
  /-- The column `match`. -/
  bits : CommandWord
  /-- The column `mask`. -/
  mask : CommandWord
  /-- The command, its fields cut from the word as R71 says. -/
  build : CommandWord → Instr

/-- `w` is the command of row `r` (R74). -/
def Row.matches (r : Row) (w : CommandWord) : Bool := w &&& r.mask == r.bits

/-- `NOP`, 0x00 (30_encoding.md R74). -/
def nopRows : List Row :=
  [{ mnemonic := "NOP", bits := 0x00000000#32, mask := 0xFFFFFFFF#32, build := fun _ => .nop }]

/-- The field unit, 0x1x (30_encoding.md R74). -/
def gfRows : List Row :=
  [{ mnemonic := "GF.LI", bits := 0x10000000#32, mask := 0xFF8F0000#32, build := fun w => .gfLi (fieldRd w) (fieldImm w) },
   { mnemonic := "GF.MOV", bits := 0x11000000#32, mask := 0xFF88FFFF#32, build := fun w => .gfMov (fieldRd w) (fieldRa w) },
   { mnemonic := "GF.ADD", bits := 0x12000000#32, mask := 0xFF888FFF#32, build := fun w => .gfAdd (fieldRd w) (fieldRa w) (fieldRb w) },
   { mnemonic := "GF.DEG", bits := 0x13000000#32, mask := 0xFF88FFFF#32, build := fun w => .gfDeg (fieldRd w) (fieldRa w) },
   { mnemonic := "GF.DIV", bits := 0x14000000#32, mask := 0xFF888FFF#32, build := fun w => .gfDiv (fieldRd w) (fieldRa w) (fieldRb w) },
   { mnemonic := "GF.REM", bits := 0x15000000#32, mask := 0xFF888FFF#32, build := fun w => .gfRem (fieldRd w) (fieldRa w) (fieldRb w) },
   { mnemonic := "GF.MUL", bits := 0x16000000#32, mask := 0xFF888FFF#32, build := fun w => .gfMul (fieldRd w) (fieldRa w) (fieldRb w) },
   { mnemonic := "GF.XGCD", bits := 0x17000000#32, mask := 0xFF888FFF#32, build := fun w => .gfXgcd (fieldRd w) (fieldRa w) (fieldRb w) },
   { mnemonic := "GF.INV", bits := 0x18000000#32, mask := 0xFF88FFFF#32, build := fun w => .gfInv (fieldRd w) (fieldRa w) },
   { mnemonic := "GF.CMP", bits := 0x19000000#32, mask := 0xFF888FFF#32, build := fun w => .gfCmp (fieldRd w) (fieldRa w) (fieldRb w) },
   { mnemonic := "GF.LDB", bits := 0x1A000000#32, mask := 0xFF8FFF00#32, build := fun w => .gfLdb (fieldRd w) (fieldAddr w) },
   { mnemonic := "GF.STB", bits := 0x1B000000#32, mask := 0xFF8FFF00#32, build := fun w => .gfStb (fieldRd w) (fieldAddr w) }]

/-- The substitution box, 0x2x (30_encoding.md R74). -/
def sboxRows : List Row :=
  [{ mnemonic := "SEED.LO", bits := 0x20000000#32, mask := 0xFFFF0000#32, build := fun w => .seedLo (fieldImm w) },
   { mnemonic := "SEED.HI", bits := 0x21000000#32, mask := 0xFFFF0000#32, build := fun w => .seedHi (fieldImm w) },
   { mnemonic := "SB.BUILD", bits := 0x22000000#32, mask := 0xFFFFFFFF#32, build := fun _ => .sbBuild },
   { mnemonic := "SB.FWD", bits := 0x23000000#32, mask := 0xFF88FFFF#32, build := fun w => .sbFwd (fieldRd w) (fieldRa w) },
   { mnemonic := "SB.INV", bits := 0x24000000#32, mask := 0xFF88FFFF#32, build := fun w => .sbInv (fieldRd w) (fieldRa w) },
   { mnemonic := "SB.AFF", bits := 0x25000000#32, mask := 0xFF88FFFF#32, build := fun w => .sbAff (fieldRd w) (fieldRa w) },
   { mnemonic := "SB.BREV", bits := 0x26000000#32, mask := 0xFF88FFFF#32, build := fun w => .sbBrev (fieldRd w) (fieldRa w) }]

/-- The state matrix and the rounds, 0x3x (30_encoding.md R74). -/
def stateRows : List Row :=
  [{ mnemonic := "ST.LD", bits := 0x30000000#32, mask := 0xFFFFC000#32, build := fun w => .stLd (fieldAddr w) (fieldLen w) },
   { mnemonic := "ST.ST", bits := 0x31000000#32, mask := 0xFFFFC000#32, build := fun w => .stSt (fieldAddr w) (fieldLen w) },
   { mnemonic := "ST.GET", bits := 0x32000000#32, mask := 0xFF8FFFF0#32, build := fun w => .stGet (fieldRd w) (fieldIdx w) },
   { mnemonic := "ST.SET", bits := 0x33000000#32, mask := 0xFF8FFFF0#32, build := fun w => .stSet (fieldRd w) (fieldIdx w) },
   { mnemonic := "SUBBYTES", bits := 0x34000000#32, mask := 0xFFFFFFFF#32, build := fun _ => .subbytes },
   { mnemonic := "ISUBBYTES", bits := 0x35000000#32, mask := 0xFFFFFFFF#32, build := fun _ => .isubbytes },
   { mnemonic := "SHIFTROWS", bits := 0x36000000#32, mask := 0xFFFFFFFF#32, build := fun _ => .shiftrows },
   { mnemonic := "ISHIFTROWS", bits := 0x37000000#32, mask := 0xFFFFFFFF#32, build := fun _ => .ishiftrows },
   { mnemonic := "MIXCOLS", bits := 0x38000000#32, mask := 0xFFFFFFFF#32, build := fun _ => .mixcols },
   { mnemonic := "IMIXCOLS", bits := 0x39000000#32, mask := 0xFFFFFFFF#32, build := fun _ => .imixcols },
   { mnemonic := "ARK", bits := 0x3A000000#32, mask := 0xFFFFFFF0#32, build := fun w => .ark (fieldIdx w) },
   { mnemonic := "ARKM", bits := 0x3B000000#32, mask := 0xFFFFC000#32, build := fun w => .arkm (fieldAddr w) (fieldLen w) }]

/-- The key, 0x4x, the cipher and the chaining, 0x5x (30_encoding.md R74). -/
def cipherRows : List Row :=
  [{ mnemonic := "CFG", bits := 0x40000000#32, mask := 0xFFFFFFE0#32, build := fun w => .cfg (fieldImm w) },
   { mnemonic := "KEXP", bits := 0x41000000#32, mask := 0xFFFFC000#32, build := fun w => .kexp (fieldAddr w) (fieldLen w) },
   { mnemonic := "RK.ST", bits := 0x42000000#32, mask := 0xFFFFC000#32, build := fun w => .rkSt (fieldAddr w) (fieldLen w) },
   { mnemonic := "ENCB", bits := 0x50000000#32, mask := 0xFFFFFFFF#32, build := fun _ => .encb },
   { mnemonic := "DECB", bits := 0x51000000#32, mask := 0xFFFFFFFF#32, build := fun _ => .decb },
   { mnemonic := "CH.INIT", bits := 0x58000000#32, mask := 0xFFFFFFFF#32, build := fun _ => .chInit },
   { mnemonic := "CH.ENC", bits := 0x59000000#32, mask := 0xFFFFFFFF#32, build := fun _ => .chEnc },
   { mnemonic := "CH.DEC", bits := 0x5A000000#32, mask := 0xFFFFFFFF#32, build := fun _ => .chDec },
   { mnemonic := "CH.ST", bits := 0x5B000000#32, mask := 0xFFFFFF00#32, build := fun w => .chSt (fieldAddr w) }]

/-- The 41 rows of R74. -/
def commandRows : List Row := nopRows ++ gfRows ++ sboxRows ++ stateRows ++ cipherRows

/-- Why a word is no command (R75). The unit takes `ILLEGAL_CMD` for either. -/
inductive DecodeReject where
  /-- Bits 31:24 are none of the 41 opcodes. -/
  | undefinedOpcode
  /-- The opcode is defined and a bit that must be zero is set: a reserved bit, bit 3 of a register field,
  `CFG` with any of `imm16[15:5]`, `CH.ST` with a nonzero `len`. -/
  | reservedBit
  deriving DecidableEq, Repr

/-- The name of the rejection of a word that matches no row (R75). -/
def rejectReason (w : CommandWord) : DecodeReject :=
  if commandRows.any (fun r => w.extractLsb' 24 8 == r.bits.extractLsb' 24 8) then .reservedBit else .undefinedOpcode

/-- `Decode(w)` (R76): the command of the row that `w` matches, or the rejection; it reads no state. -/
def decodeWord (w : CommandWord) : Except DecodeReject Instr :=
  match commandRows.find? (fun r => r.matches w) with
  | some r => .ok (r.build w)
  | none => .error (rejectReason w)

/-- A register field: bit 3 zero, then the register number (R72). -/
def regField (r : Reg) : BitVec 4 := BitVec.ofNat 4 r.val

/-- Format N (R71). -/
def formatN (op : BitVec 8) : CommandWord := op ++ 0#24

/-- Format R3 (R71). -/
def formatR3 (op : BitVec 8) (d a b : Reg) : CommandWord := op ++ regField d ++ regField a ++ regField b ++ 0#12

/-- Format R2 (R71). -/
def formatR2 (op : BitVec 8) (d a : Reg) : CommandWord := op ++ regField d ++ regField a ++ 0#16

/-- Format I (R71). -/
def formatI (op : BitVec 8) (d : Reg) (imm : BitVec 16) : CommandWord := op ++ regField d ++ 0#4 ++ imm

/-- Format I0 (R71). -/
def formatI0 (op : BitVec 8) (imm : BitVec 16) : CommandWord := op ++ 0#8 ++ imm

/-- Format RM (R71). -/
def formatRM (op : BitVec 8) (r : Reg) (addr : Addr) : CommandWord := op ++ regField r ++ 0#12 ++ addr

/-- Format RX (R71). -/
def formatRX (op : BitVec 8) (r : Reg) (idx : FlatIndex) : CommandWord :=
  op ++ regField r ++ 0#16 ++ BitVec.ofNat 4 idx.val

/-- Format X (R71). -/
def formatX (op : BitVec 8) (k : Fin 16) : CommandWord := op ++ 0#20 ++ BitVec.ofNat 4 k.val

/-- Format M (R71): bits 15:14 zero, `len` in 13:8, `addr` in 7:0. -/
def formatM (op : BitVec 8) (addr : Addr) (len : Len) : CommandWord :=
  op ++ 0#10 ++ BitVec.ofNat 6 len.val ++ addr

/-- The command word of `i`: the opcode of R74 and each operand at the position R71 gives its field (R78). -/
def encode : Instr → CommandWord
  | .nop => formatN 0x00#8
  | .gfLi d imm => formatI 0x10#8 d imm
  | .gfMov d a => formatR2 0x11#8 d a
  | .gfAdd d a b => formatR3 0x12#8 d a b
  | .gfDeg d a => formatR2 0x13#8 d a
  | .gfDiv d a b => formatR3 0x14#8 d a b
  | .gfRem d a b => formatR3 0x15#8 d a b
  | .gfMul d a b => formatR3 0x16#8 d a b
  | .gfXgcd d a b => formatR3 0x17#8 d a b
  | .gfInv d a => formatR2 0x18#8 d a
  | .gfCmp d a b => formatR3 0x19#8 d a b
  | .gfLdb r addr => formatRM 0x1A#8 r addr
  | .gfStb r addr => formatRM 0x1B#8 r addr
  | .seedLo imm => formatI0 0x20#8 imm
  | .seedHi imm => formatI0 0x21#8 imm
  | .sbBuild => formatN 0x22#8
  | .sbFwd d a => formatR2 0x23#8 d a
  | .sbInv d a => formatR2 0x24#8 d a
  | .sbAff d a => formatR2 0x25#8 d a
  | .sbBrev d a => formatR2 0x26#8 d a
  | .stLd addr len => formatM 0x30#8 addr len
  | .stSt addr len => formatM 0x31#8 addr len
  | .stGet r idx => formatRX 0x32#8 r idx
  | .stSet r idx => formatRX 0x33#8 r idx
  | .subbytes => formatN 0x34#8
  | .isubbytes => formatN 0x35#8
  | .shiftrows => formatN 0x36#8
  | .ishiftrows => formatN 0x37#8
  | .mixcols => formatN 0x38#8
  | .imixcols => formatN 0x39#8
  | .ark k => formatX 0x3A#8 k
  | .arkm addr len => formatM 0x3B#8 addr len
  | .cfg imm => formatI0 0x40#8 imm
  | .kexp addr len => formatM 0x41#8 addr len
  | .rkSt addr len => formatM 0x42#8 addr len
  | .encb => formatN 0x50#8
  | .decb => formatN 0x51#8
  | .chInit => formatN 0x58#8
  | .chEnc => formatN 0x59#8
  | .chDec => formatN 0x5A#8
  | .chSt addr => formatM 0x5B#8 addr 0

/-- The instruction the decoder reads from the `nbits` low bits of `w`, the bits above them zero. Every command has 32
bits, and the table numbers them as the word does (R70), so there is nothing to lay out. Log entry 8. -/
def decodeTableWord (nbits w : Nat) : Option Instr :=
  match decodeWord (BitVec.ofNat 32 (w % 2 ^ nbits)) with
  | .ok i => some i
  | .error _ => none

end Sys2Proof
end

