-- ==== Sys2Proof/Config.lean ====
section
/-! DEFINITION. The parameters the spec leaves open (00_scope.md R7; 10_state.md R37).
An opaque constant has no body here: nothing can be proved of its value. -/

namespace Sys2Proof

/-- `DRAW(seed, k, n + 1)`: the index drawn at position `k` among the `n + 1` elements still in the pool, an index
below `n + 1` (41_sbox.md R132; 92_eei_decisions.md D15, OPEN). The permutation `PERM(seed)` is computed from it by
the draw procedure of R132 (`Sys2Proof.Machine.permutation`), so that it depends on the seed alone and that it is a
permutation is a theorem, not an assumption. Log entry 1. -/
opaque Config.draw : (seed : BitVec 32) → (k : Nat) → (n : Nat) → Fin (n + 1)

/-- `DMEM_INIT`: the byte an address of DMEM holds until something writes it (10_state.md R36; 70_reset_and_hazards.md
R261; 92_eei_decisions.md D24, OPEN). Log entry 2. -/
opaque Config.dmemInit : (addr : Nat) → Byte

/-- The values of the switch `KS_T_ARG`: the word `T` is applied to at a group boundary of the key schedule
(00_scope.md R7; 43_keyschedule.md R183). Which one this unit has is `Sys2Proof.Machine.ksTArg`. -/
inductive KsTArg where
  /-- The word at `i - Nk`, the spec's default. -/
  | boundary
  /-- The word at `i - 1`. -/
  | previous
  deriving DecidableEq, Repr

end Sys2Proof
end

