-- ==== Sys2Proof/Machine/State.lean ====
section
/-! DEFINITION. The whole architectural state of the unit (10_state.md R20), as plain data, the host's pending actions
(70_reset_and_hazards.md R263, R264), the ways a step could stop, and the state after reset (10_state.md R36). -/

namespace Sys2Proof.Machine

/-- A 4x4 byte matrix, rows first: `m[r][c]` is `S[r][c]` (10_state.md R26). -/
abbrev Matrix := Vector (Vector Byte 4) 4

/-- A 16-byte block in flat order (10_state.md R27, R28). -/
abbrev Block := Vector Byte 16

/-- A substitution table, indexed by a byte (10_state.md R29). -/
abbrev Table := Vector Byte 256

/-- The round-key file `RK[0]` to `RK[14]` (10_state.md R30). -/
abbrev RoundKeys := Vector Matrix 15

/-- The written bytes of DMEM by address, in the canonical form `Memory.wf` of Ops.lean: addresses strictly rising and
below 256. An address with no entry has not been written since power-on and reads as `Config.dmemInit` (log entry 2). -/
abbrev Memory := List Host.Cell

/-- The key parameter pairs that `CTRL.KS` selects (10_state.md R24, R31); the encoding 3 can never be stored. -/
inductive KeySize where
  /-- `KS` = 0: keyBits 128, 10 rounds. -/
  | k128
  /-- `KS` = 1: keyBits 192, 12 rounds. -/
  | k192
  /-- `KS` = 2: keyBits 256, 14 rounds. -/
  | k256
  deriving DecidableEq, Repr

/-- The chain modes that `CTRL.MODE` selects (10_state.md R24; 45_chaining.md R210); 4 to 7 can never be stored. -/
inductive ChainMode where
  /-- `MODE` = 0. -/
  | ecb
  /-- `MODE` = 1. -/
  | cbc
  /-- `MODE` = 2. -/
  | ofb
  /-- `MODE` = 3. -/
  | cfb
  deriving DecidableEq, Repr

/-- `CTRL` (10_state.md R24): its two fields; bits 31:5 read 0 and have nothing to hold. The register word is
`Ctrl.word` of Flags.lean. -/
structure Ctrl where
  /-- Field `KS`, bits 1:0. -/
  ks : KeySize
  /-- Field `MODE`, bits 4:2. -/
  mode : ChainMode
  deriving DecidableEq, Repr

/-- `STATUS` (10_state.md R23): its four fields; bits 3 and 31:8 read 0 and have nothing to hold. The register word is
`Status.word` of Flags.lean. -/
structure Status where
  /-- `SBV`, bit 0: FWD and INV hold a substitution box built since the last reset. -/
  sbv : Bool
  /-- `KV`, bit 1: RK[0..Nr] hold an expanded key. -/
  kv : Bool
  /-- `ERR`, bit 2: a fault has been taken and the unit is halted. -/
  err : Bool
  /-- `CAUSE`, bits 7:4: the code of the fault taken, 0 while `ERR` = 0. -/
  cause : BitVec 4
  deriving DecidableEq, Repr

/-- What the host does to the unit, always between two commands (70_reset_and_hazards.md R263, R264; 20_memory.md
R61). -/
inductive HostAction where
  /-- The reset input is applied (70_reset_and_hazards.md R260). -/
  | reset
  /-- A command word is issued on the command port. -/
  | command (w : CommandWord)
  /-- The host writes one byte of DMEM. -/
  | writeDmem (addr : Addr) (data : Byte)
  /-- The host reads one byte of DMEM; the byte is `State.hostReadDmem`. -/
  | readDmem (addr : Addr)
  /-- The host reads a register on the register port (10_state.md R35); the word is `State.readPort`. -/
  | readPort (index : BitVec 4)
  deriving DecidableEq, Repr

/-- The state of the unit (10_state.md R20) and the host's pending actions. -/
structure State where
  /-- `p0` to `p7` (10_state.md R21). -/
  p : Vector PolyWord 8
  /-- `S`, the state matrix (R26). -/
  matrix : Matrix
  /-- `R`, the chain register (R28). -/
  chain : Block
  /-- `FWD`, the forward substitution table (R29). -/
  fwd : Table
  /-- `INV`, the inverse substitution table (R29). -/
  inv : Table
  /-- `RK`, the round-key file (R30). -/
  rk : RoundKeys
  /-- `CTRL` (R24). -/
  ctrl : Ctrl
  /-- `STATUS` (R23). -/
  status : Status
  /-- `SEED` (R25). -/
  seed : BitVec 32
  /-- `DMEM` (R32). -/
  dmem : Memory
  /-- The host's actions still to come, the next one first (70_reset_and_hazards.md R263); the model's own field, log
  entry 5. -/
  host : List HostAction
  deriving DecidableEq, Repr

/-- The ways a step could stop with a fault: none, so the type is empty and no step of this model ever answers `fault`
(safe). Every fault of the spec is an event after which the unit has a state: it sets STATUS and halts the unit
(60_exceptions.md R231, R232), which the model takes as a next state (`takeFault` of Ops.lean). -/
inductive Fault where
  deriving DecidableEq, Repr

/-- The ways the model could refuse. -/
inductive Refusal where
  /-- Raised by an arm of `exec` for an instruction with no meaning yet, by its mnemonic (safe). No arm raises it: all
  41 commands have their meaning. -/
  | notModelled (mnemonic : String)
  deriving DecidableEq, Repr

/-- The outcome of a step of this machine. -/
abbrev Outcome := Host.Outcome State Fault Refusal

/-- The matrix with every byte 0. -/
def Matrix.zero : Matrix := Vector.replicate 4 (Vector.replicate 4 0)

/-- The state after power-on and reset (10_state.md R36; 70_reset_and_hazards.md R260, R261): the values of R36, no byte
of DMEM written yet, no host action pending. FWD, INV and RK are unspecified in R36 and hold zeros here, which no command
can read (log entry 3). -/
def State.reset : State where
  p := Vector.replicate 8 0
  matrix := Matrix.zero
  chain := Vector.replicate 16 0
  fwd := Vector.replicate 256 0
  inv := Vector.replicate 256 0
  rk := Vector.replicate 15 Matrix.zero
  ctrl := { ks := .k128, mode := .ecb }
  status := { sbv := false, kv := false, err := false, cause := 0 }
  seed := 0
  dmem := []
  host := []

end Sys2Proof.Machine
end

