-- ==== Sys2Proof/Machine/Gf256.lean ====
section
/-! DEFINITION. The pure functions of the GF(256) polynomial arithmetic unit (40_gf256.md part 1), on unbounded
naturals: bit `i` of the number is the coefficient of `x^i` (00_scope.md R10), so nothing is truncated (R109). Each loop
of the spec is a recursion on a number of passes that R122 shows is enough. -/

namespace Sys2Proof.Machine

/-- The modulus `m(x) = x^8 + x^4 + x^3 + x + 1` (00_scope.md R6). -/
def modulus : Poly := 0x11B

/-- `add(a, b)` (R100). -/
def polyAdd (a b : Poly) : Poly := a ^^^ b

/-- `deg(a)`, with `deg(0) = 0` (R101). -/
def polyDeg (a : Poly) : Nat := Nat.log2 a

/-- The loop of `divmod` (R102), at most `fuel` passes: `q` the quotient so far, `a` the running dividend. -/
def divmodLoop (b : Poly) : (fuel : Nat) → (q a : Poly) → Poly × Poly
  | 0, q, a => (q, a)
  | fuel + 1, q, a =>
    if a ≠ 0 ∧ polyDeg b ≤ polyDeg a then
      divmodLoop b fuel (q ^^^ (1 <<< (polyDeg a - polyDeg b))) (a ^^^ (b <<< (polyDeg a - polyDeg b)))
    else (q, a)

/-- `divmod(a, b)` for `b ≠ 0`: the raw quotient and the remainder (R102). -/
def divmod (a b : Poly) : Poly × Poly := divmodLoop b (polyDeg a + 1) 0 a

/-- `rem(a, b)` for `b ≠ 0`, not reduced further (R104). -/
def polyRem (a b : Poly) : Poly := (divmod a b).2

/-- `quot(a, b)` for `b ≠ 0`: the raw quotient, reduced modulo `m(x)` when it exceeds 255 (R103). -/
def polyQuot (a b : Poly) : Poly :=
  let q := (divmod a b).1
  if q > 255 then polyRem q modulus else q

/-- The loop of `clmul` (R105), at most `fuel` passes. -/
def clmulLoop : (fuel : Nat) → (r a b : Poly) → Poly
  | 0, r, _, _ => r
  | fuel + 1, r, a, b =>
    if b ≠ 0 then clmulLoop fuel (if b.testBit 0 then r ^^^ a else r) (a <<< 1) (b >>> 1) else r

/-- `clmul(a, b)`, the raw carry-less product (R105). -/
def clmul (a b : Poly) : Poly := clmulLoop (polyDeg b + 1) 0 a b

/-- `mul(a, b)`, the field product, always at most 255 (R105). -/
def polyMul (a b : Poly) : Poly := polyRem (clmul a b) modulus

/-- What one pass of the extended Euclidean algorithm keeps (R106): the pair of remainders and the two coefficient
pairs, `u` of the smaller operand and `v` of the larger. -/
structure XgcdPair where
  r0 : Poly
  r1 : Poly
  u0 : Poly
  u1 : Poly
  v0 : Poly
  v1 : Poly
  deriving DecidableEq, Repr

/-- The body of the loop of `xgcd` (R106). -/
def xgcdPass (x : XgcdPair) : XgcdPair where
  r0 := x.r1
  r1 := polyRem x.r0 x.r1
  u0 := x.u1
  u1 := x.u0 ^^^ polyMul x.u1 (polyQuot x.r0 x.r1)
  v0 := x.v1
  v1 := x.v0 ^^^ polyMul x.v1 (polyQuot x.r0 x.r1)

/-- The loop of `xgcd` (R106), at most `fuel` passes: it tests the divisor before it divides. -/
def xgcdLoop : (fuel : Nat) → XgcdPair → XgcdPair
  | 0, x => x
  | fuel + 1, x => if x.r1 ≠ 0 then xgcdLoop fuel (xgcdPass x) else x

/-- The state of the loop of `xgcd` before the first pass, for `lo ≤ hi` (R106). -/
def xgcdStart (lo hi : Poly) : XgcdPair := { r0 := hi, r1 := lo, u0 := 0, u1 := 1, v0 := 1, v1 := 0 }

/-- `xgcd` of `lo ≤ hi`: the GCD, the coefficient of `lo` and the coefficient of `hi` (R106). -/
def xgcdOrdered (lo hi : Poly) : Poly × Poly × Poly :=
  let x := xgcdLoop (polyDeg lo + 1) (xgcdStart lo hi)
  (x.r0, polyRem x.u0 modulus, polyRem x.v0 modulus)

/-- `xgcd(a, b)`: the GCD and the Bézout coefficients of `a` and of `b` (R106), the operands swapped when `a > b` in the
order of 00_scope.md R11 and the roles of the coefficients swapped back. -/
def xgcd (a b : Poly) : Poly × Poly × Poly :=
  if a > b then
    match xgcdOrdered b a with
    | (g, clo, chi) => (g, chi, clo)
  else xgcdOrdered a b

/-- `inv(a)`: the inverse modulo `m(x)`, 0 where there is none (R107). -/
def polyInv (a : Poly) : Poly :=
  match xgcd a modulus with
  | (g, ca, _) => if g ≠ 1 then 0 else polyRem ca modulus

/-- The outcome of `GF.CMP` on two raw values: 0 equal, 1 greater, 2 less (R119; 00_scope.md R11). -/
def polyCompare (a b : Poly) : Nat := if a = b then 0 else if a > b then 1 else 2

/-- The field product of two bytes, a byte (R105, R109). -/
def byteMul (x y : Byte) : Byte := BitVec.ofNat 8 (polyMul x.toNat y.toNat)

end Sys2Proof.Machine
end

