-- ==== Sys2Proof/Machine/Ops.lean ====
section
/-! DEFINITION. The named operations over the state: DMEM, the registers, the taking of a fault and the reset that is
its only way back, and the shape every command has (20_memory.md, 60_exceptions.md). -/

namespace Sys2Proof.Machine

/-! ### DMEM (20_memory.md R50 to R58) -/

/-- The canonical form of DMEM's cells above address `lo`: addresses strictly rising, all in `lo..255`. -/
def Memory.wfFrom : Nat → Memory → Bool
  | _, [] => true
  | lo, (a, _) :: m => decide (lo ≤ a) && decide (a < 256) && Memory.wfFrom (a + 1) m

/-- DMEM's cells are in canonical form: addresses strictly rising, all of them among 0..255 (R50). -/
def Memory.wf (m : Memory) : Bool := Memory.wfFrom 0 m

/-- The byte written at address `a`, if one has been. -/
def Memory.find : Memory → Nat → Option Byte
  | [], _ => none
  | (k, b) :: m, a => if k = a then some b else Memory.find m a

/-- `DMEM[a]`: the byte last written there, or the open initial byte (10_state.md R36; log entry 2). -/
def Memory.read (m : Memory) (a : Nat) : Byte := (Memory.find m a).getD (Config.dmemInit a)

/-- `DMEM[a] <- b`, keeping the canonical form. -/
def Memory.write : Memory → Nat → Byte → Memory
  | [], a, b => [(a, b)]
  | (k, c) :: m, a, b =>
    if a < k then (a, b) :: (k, c) :: m
    else if a = k then (a, b) :: m
    else (k, c) :: Memory.write m a b

/-- The `n` bytes at `a`, `a+1`, .. in that order (R51). -/
def Memory.readRun (m : Memory) : Nat → Nat → List Byte
  | _, 0 => []
  | a, n + 1 => Memory.read m a :: Memory.readRun m (a + 1) n

/-- Writes the bytes of the list at `a`, `a+1`, .. in that order (R51). -/
def Memory.writeRun (m : Memory) : Nat → List Byte → Memory
  | _, [] => m
  | a, b :: bs => Memory.writeRun (Memory.write m a b) (a + 1) bs

/-! ### Updates of one field -/

/-- `p[d] <- v` (00_scope.md R12). -/
def State.writeP (s : State) (d : Reg) (v : PolyWord) : State := { s with p := s.p.set d v }

/-- `S <- m` (00_scope.md R12). -/
def State.writeMatrix (s : State) (m : Matrix) : State := { s with matrix := m }

/-- `R <- b` (00_scope.md R12). -/
def State.writeChain (s : State) (b : Block) : State := { s with chain := b }

/-- FWD and INV, written together (10_state.md R29). -/
def State.writeBox (s : State) (fwd inv : Table) : State := { s with fwd := fwd, inv := inv }

/-- RK, written as a whole (10_state.md R30). -/
def State.writeRoundKeys (s : State) (rk : RoundKeys) : State := { s with rk := rk }

/-- CTRL (10_state.md R24). -/
def State.writeCtrl (s : State) (c : Ctrl) : State := { s with ctrl := c }

/-- STATUS (10_state.md R23). -/
def State.writeStatus (s : State) (x : Status) : State := { s with status := x }

/-- SEED (10_state.md R25). -/
def State.writeSeed (s : State) (v : BitVec 32) : State := { s with seed := v }

/-- DMEM (10_state.md R32). -/
def State.writeDmem (s : State) (m : Memory) : State := { s with dmem := m }

/-- The host's pending actions (70_reset_and_hazards.md R263). -/
def State.writeHost (s : State) (h : List HostAction) : State := { s with host := h }

/-! ### Faults (60_exceptions.md R230 to R237) -/

/-- The fault causes (R230). -/
inductive FaultCode where
  | divZero
  | blockTooLong
  | keyLength
  | keyParam
  | chainMode
  | illegalCmd
  | sboxNotBuilt
  | keyNotExpanded
  | dmemRange
  | operandRange
  deriving DecidableEq, Repr

/-- The number written to `STATUS.CAUSE` (R230). -/
def FaultCode.code : FaultCode → BitVec 4
  | .divZero => 1
  | .blockTooLong => 2
  | .keyLength => 3
  | .keyParam => 4
  | .chainMode => 5
  | .illegalCmd => 6
  | .sboxNotBuilt => 7
  | .keyNotExpanded => 8
  | .dmemRange => 9
  | .operandRange => 10

/-- `raise F`: the entry of every fault (R231). Only `STATUS.ERR` and `STATUS.CAUSE` are written. -/
def takeFault (f : FaultCode) (s : State) : State :=
  s.writeStatus { s.status with err := true, cause := f.code }

/-- Reset, the only way out of the halted state (R237; 70_reset_and_hazards.md R260): the values of 10_state.md R36, and
DMEM as it was. FWD, INV and RK, unspecified after reset and unreadable, keep their bytes (log entry 6). -/
def applyReset (s : State) : State :=
  { s with
    p := State.reset.p
    matrix := State.reset.matrix
    chain := State.reset.chain
    ctrl := State.reset.ctrl
    status := State.reset.status
    seed := State.reset.seed }

/-- The fault line (R231, R236; 70_reset_and_hazards.md R264): level-sensitive, equal to `STATUS.ERR`. -/
def State.faultLine (s : State) : Bool := s.status.err

/-- What a command does to `s`, given what its operation answers: in the halted state nothing at all (R232), else the
state its operation leaves or the entry of the fault it raises. The operation answers a fault with no state, which is
how R233's "the faulting command has written nothing" is kept. -/
def runCommand (s : State) (operation : Except FaultCode State) : Outcome :=
  if s.status.err then .next s
  else
    match operation with
    | .ok t => .next t
    | .error f => .next (takeFault f s)

/-! ### The memory primitives (20_memory.md R51) -/

/-- `MemRead(addr, n)`: the address never wraps, and an access of no bytes never faults. -/
def memRead (s : State) (addr : Addr) (n : Nat) : Except FaultCode (List Byte) :=
  if addr.toNat + n > 256 then .error .dmemRange else .ok (Memory.readRun s.dmem addr.toNat n)

/-- `MemWrite(addr, n, v)`, with `n` the length of `v`. -/
def memWrite (s : State) (addr : Addr) (v : List Byte) : Except FaultCode State :=
  if addr.toNat + v.length > 256 then .error .dmemRange
  else .ok (s.writeDmem (Memory.writeRun s.dmem addr.toNat v))

end Sys2Proof.Machine
end

