-- ==== Sys2Proof/Machine/Flags.lean ====
section
/-! DEFINITION. STATUS and CTRL: their register words, the key parameters, and every computation on the valid flags
(10_state.md R23, R24, R31; 70_reset_and_hazards.md R265, R266). No arithmetic command writes a flag (R23). -/

namespace Sys2Proof.Machine

/-- The field `KS` (10_state.md R24). -/
def KeySize.code : KeySize → BitVec 2
  | .k128 => 0
  | .k192 => 1
  | .k256 => 2

/-- The field `MODE` (10_state.md R24). -/
def ChainMode.code : ChainMode → BitVec 3
  | .ecb => 0
  | .cbc => 1
  | .ofb => 2
  | .cfb => 3

/-- `keyBits` (10_state.md R31). -/
def KeySize.keyBits : KeySize → Nat
  | .k128 => 128
  | .k192 => 192
  | .k256 => 256

/-- `Nk` = groupLength (10_state.md R31). -/
def KeySize.nk : KeySize → Nat
  | .k128 => 4
  | .k192 => 6
  | .k256 => 8

/-- `Nr` = rounds (10_state.md R31). -/
def KeySize.nr : KeySize → Nat
  | .k128 => 10
  | .k192 => 12
  | .k256 => 14

/-- The word of CTRL: KS in bits 1:0, MODE in bits 4:2, the rest 0 (10_state.md R24). -/
def Ctrl.word (c : Ctrl) : PortWord := 0#27 ++ c.mode.code ++ c.ks.code

/-- The word of STATUS: SBV in bit 0, KV in bit 1, ERR in bit 2, CAUSE in bits 7:4, the rest 0 (10_state.md R23). -/
def Status.word (x : Status) : PortWord :=
  0#24 ++ x.cause ++ 0#1 ++ BitVec.ofBool x.err ++ BitVec.ofBool x.kv ++ BitVec.ofBool x.sbv

/-- `if STATUS.SBV = 0: raise SBOX_NOT_BUILT` (70_reset_and_hazards.md R265). -/
def needBox (s : State) : Except FaultCode Unit := if s.status.sbv then .ok () else .error .sboxNotBuilt

/-- `if STATUS.KV = 0: raise KEY_NOT_EXPANDED` (70_reset_and_hazards.md R265). -/
def needKey (s : State) : Except FaultCode Unit := if s.status.kv then .ok () else .error .keyNotExpanded

/-- `STATUS.SBV <- 1 ; STATUS.KV <- 0` (41_sbox.md R138). -/
def State.markBoxBuilt (s : State) : State := s.writeStatus { s.status with sbv := true, kv := false }

/-- `STATUS.KV <- 1` (43_keyschedule.md R187). -/
def State.markKeyExpanded (s : State) : State := s.writeStatus { s.status with kv := true }

/-- `STATUS.KV <- 0` (43_keyschedule.md R186). -/
def State.invalidateKey (s : State) : State := s.writeStatus { s.status with kv := false }

end Sys2Proof.Machine
end

