-- ==== Sys2Proof/Machine/Operands.lean ====
section
/-! DEFINITION. Every operand form of a command (30_encoding.md R71 to R73; 20_memory.md R56, R66), with the check the
spec makes on it. -/

namespace Sys2Proof.Machine

/-- A polynomial register as a polynomial (10_state.md R21). -/
def State.poly (s : State) (a : Reg) : Poly := s.p[a].toNat

/-- `p[d] <- v` for a polynomial `v` below 2^16 (00_scope.md R12; 40_gf256.md R109 shows that every result fits). -/
def State.writePoly (s : State) (d : Reg) (v : Poly) : State := s.writeP d (BitVec.ofNat 16 v)

/-- A register that must hold a byte: `if p[a] > 255: raise OPERAND_RANGE` (60_exceptions.md R230). -/
def byteOperand (s : State) (a : Reg) : Except FaultCode Byte :=
  if s.poly a > 255 then .error .operandRange else .ok (BitVec.ofNat 8 (s.poly a))

/-- `zext_16(b)` into a register (00_scope.md R9). -/
def State.writeByte (s : State) (d : Reg) (b : Byte) : State := s.writeP d (b.setWidth 16)

/-- A block length, legal up to 16: `if len > 16: raise BLOCK_TOO_LONG` (20_memory.md R56). -/
def blockLength (len : Len) : Except FaultCode Nat :=
  if len.val > 16 then .error .blockTooLong else .ok len.val

/-- A block read from DMEM (42_state_rounds.md R157): the length check, then the range check. -/
def blockOperand (s : State) (addr : Addr) (len : Len) : Except FaultCode (List Byte) := do
  let n ← blockLength len
  memRead s addr n

/-- A raw key in DMEM (43_keyschedule.md R187): `if len * 8 != keyBits: raise KEY_LENGTH`, then the range check. -/
def keyOperand (s : State) (addr : Addr) (len : Len) : Except FaultCode (List Byte) :=
  if len.val * 8 ≠ s.ctrl.ks.keyBits then .error .keyLength else memRead s addr len.val

/-- `RK[k]` (10_state.md R30); every index used is at most Nr, so at most 14. -/
def roundKey (rk : RoundKeys) (k : Nat) : Matrix := if h : k < 15 then rk[k] else Matrix.zero

/-- A round-key index operand: `if k > Nr: raise OPERAND_RANGE` (42_state_rounds.md R167). -/
def roundKeyOperand (s : State) (k : Nat) : Except FaultCode Matrix :=
  if k > s.ctrl.ks.nr then .error .operandRange else .ok (roundKey s.rk k)

/-- `KS` of the `CFG` immediate, bits 1:0; 3 is no key parameter pair (43_keyschedule.md R186). -/
def keySizeOperand (imm : BitVec 16) : Except FaultCode KeySize :=
  match (imm.extractLsb' 0 2).toNat with
  | 0 => .ok .k128
  | 1 => .ok .k192
  | 2 => .ok .k256
  | _ => .error .keyParam

/-- `MODE` of the `CFG` immediate, bits 4:2; 4 to 7 are no chain mode (43_keyschedule.md R186). -/
def chainModeOperand (imm : BitVec 16) : Except FaultCode ChainMode :=
  match (imm.extractLsb' 2 3).toNat with
  | 0 => .ok .ecb
  | 1 => .ok .cbc
  | 2 => .ok .ofb
  | 3 => .ok .cfb
  | _ => .error .chainMode

end Sys2Proof.Machine
end

