-- ==== Sys2Proof/Machine/SBox.lean ====
section
/-! DEFINITION. The substitution box: its generator, its tables and its commands (41_sbox.md). -/

namespace Sys2Proof.Machine

/-- `bitrev8(b)`: bit `i` goes to bit `7 - i` (R130). -/
def bitrev8 (b : Byte) : Byte :=
  (List.range 8).foldl (fun acc i => acc + ((b >>> i) &&& 1#8) <<< (7 - i)) 0#8

/-- `affine(b) = mul(bitrev8(b), 0x1F) ⊕ 0x63` (R131). -/
def affine (b : Byte) : Byte := byteMul (bitrev8 b) 0x1F#8 ^^^ 0x63#8

/-- The byte values in ascending order, the pool the draws start from (R132). -/
def initialPool : List Byte := (List.range 256).map (BitVec.ofNat 8)

/-- The draws of R132 from draw position `k` on, `n` elements still in the pool: element number `DRAW(k, n)` of the pool
comes out next, and the others keep their order. -/
def drawFrom (draw : Nat → (n : Nat) → Fin (n + 1)) : (n k : Nat) → (pool : List Byte) → List Byte
  | 0, _, _ => []
  | n + 1, k, pool =>
    match pool[(draw k n).val]? with
    | none => []
    | some b => b :: drawFrom draw n (k + 1) (pool.eraseIdx (draw k n).val)

/-- One draw from every nonempty pool of the right size: as many bytes come out as the pool holds. -/
theorem length_drawFrom (draw : Nat → (n : Nat) → Fin (n + 1)) (n k : Nat) (pool : List Byte)
    (h : pool.length = n) : (drawFrom draw n k pool).length = n := by
  induction n generalizing k pool with
  | zero => rfl
  | succ n ih =>
    have hj : (draw k n).val < pool.length := by omega
    have hrest : (pool.eraseIdx (draw k n).val).length = n := by rw [List.length_eraseIdx_of_lt hj]; omega
    simp [drawFrom, List.getElem?_eq_getElem hj, ih _ _ hrest]

/-- The sequence `P[0..255]` that a draw function gives (R132). -/
def permutationOf (draw : Nat → (n : Nat) → Fin (n + 1)) : Table :=
  ⟨(drawFrom draw 256 0 initialPool).toArray, by simp [length_drawFrom, initialPool]⟩

/-- `PERM(seed)`, the seeded permutation (R132), with the open generator `DRAW` of 92_eei_decisions.md D15. -/
def permutation (seed : BitVec 32) : Table := permutationOf (Config.draw seed)

/-- `box[b]` (R139, R140). -/
def Table.lookup (box : Table) (b : Byte) : Byte := box[b.toNat]

/-- The forward construction: `FWD[i] := affine(P[i])` (R133). -/
def buildForward (perm : Table) : Table := perm.map affine

/-- The inverse construction, over the table that stood there: `INV[FWD[i]] := i` for `i` in 0..255 (R134). -/
def buildInverse (fwd old : Table) : Table :=
  (List.finRange 256).foldl (fun inv i => inv.set (fwd[i]).toNat (BitVec.ofNat 8 i.val)) old

/-- `SEED.LO imm16`: `SEED <- SEED[31:16] ‖ imm16` (R136). -/
def execSeedLo (imm : BitVec 16) (s : State) : Outcome :=
  runCommand s (.ok (s.writeSeed (s.seed.extractLsb' 16 16 ++ imm)))

/-- `SEED.HI imm16`: `SEED <- imm16 ‖ SEED[15:0]` (R137). -/
def execSeedHi (imm : BitVec 16) (s : State) : Outcome :=
  runCommand s (.ok (s.writeSeed (imm ++ s.seed.extractLsb' 0 16)))

/-- The state after the tables are built from the sequence `perm` (R138). -/
def State.buildBox (s : State) (perm : Table) : State :=
  (s.writeBox (buildForward perm) (buildInverse (buildForward perm) s.inv)).markBoxBuilt

/-- `SB.BUILD` (R138). -/
def execSbBuild (s : State) : Outcome := runCommand s (.ok (s.buildBox (permutation s.seed)))

/-- `SB.FWD pd, pa` (R139). -/
def execSbFwd (d a : Reg) (s : State) : Outcome :=
  runCommand s do
    needBox s
    let b ← byteOperand s a
    return s.writeByte d (Table.lookup s.fwd b)

/-- `SB.INV pd, pa` (R140). -/
def execSbInv (d a : Reg) (s : State) : Outcome :=
  runCommand s do
    needBox s
    let b ← byteOperand s a
    return s.writeByte d (Table.lookup s.inv b)

/-- `SB.AFF pd, pa`, which needs no table (R141). -/
def execSbAff (d a : Reg) (s : State) : Outcome :=
  runCommand s do
    let b ← byteOperand s a
    return s.writeByte d (affine b)

/-- `SB.BREV pd, pa` (R142). -/
def execSbBrev (d a : Reg) (s : State) : Outcome :=
  runCommand s do
    let b ← byteOperand s a
    return s.writeByte d (bitrev8 b)

end Sys2Proof.Machine
end

