-- ==== Sys2Proof/Machine/Rounds.lean ====
section
/-! DEFINITION. The state matrix, the round transformations and their commands (42_state_rounds.md). -/

namespace Sys2Proof.Machine

/-- The direction of `shiftRows` and `mixColumns` (R153, R155). -/
inductive Direction where
  | forward
  | inverse
  deriving DecidableEq, Repr

/-- The matrix with `f r c` at row `r`, column `c`. -/
def Matrix.ofFn (f : Fin 4 → Fin 4 → Byte) : Matrix := Vector.ofFn fun r => Vector.ofFn fun c => f r c

/-- `M[r][c]`, row `r` and column `c` (42_state_rounds.md, opening). -/
def Matrix.entry (m : Matrix) (r c : Fin 4) : Byte := m[r][c]

/-- The row of flat index `i`: `i mod 4` (10_state.md R27). -/
def flatRow (i : FlatIndex) : Fin 4 := ⟨i.val % 4, by omega⟩

/-- The column of flat index `i`: `i div 4` (10_state.md R27). -/
def flatCol (i : FlatIndex) : Fin 4 := ⟨i.val / 4, by omega⟩

/-- `ToState(seq)`: column-major fill, zeros on the right (R150). -/
def toState (seq : List Byte) : Matrix := Matrix.ofFn fun r c => seq.getD (4 * c.val + r.val) 0

/-- `FromState(M)`: the 16 bytes in flat order (R151). -/
def fromState (m : Matrix) : Block := Vector.ofFn fun i => Matrix.entry m (flatRow i) (flatCol i)

/-- The state of a 16-byte block (R150). -/
def blockToState (b : Block) : Matrix := toState b.toList

/-- `byteSubstitution(M, box)` (R152). -/
def byteSubstitution (m : Matrix) (box : Table) : Matrix := Matrix.ofFn fun r c => Table.lookup box (Matrix.entry m r c)

/-- `shiftRows(M, direction)` (R153): the columns are added and subtracted modulo 4. -/
def shiftRows (dir : Direction) (m : Matrix) : Matrix :=
  match dir with
  | .forward => Matrix.ofFn fun r c => Matrix.entry m r (c + r)
  | .inverse => Matrix.ofFn fun r c => Matrix.entry m r (c - r)

/-- The first row of `MIX_F` or of `MIX_I` (R154; 00_scope.md R6). -/
def mixFirstRow : Direction → Vector Byte 4
  | .forward => #v[2, 3, 1, 1]
  | .inverse => #v[14, 11, 13, 9]

/-- `MIX_F` or `MIX_I`: each row is the one above it rotated right by one, `matrix[i][k] = firstRow[(k - i) mod 4]`; the
subtraction of two `Fin 4` is modulo 4 (R154). -/
def mixMatrix (dir : Direction) : Matrix := Matrix.ofFn fun i k => (mixFirstRow dir)[k - i]

/-- The product of a matrix with `M`, column by column, in the field (R155). -/
def mixProduct (x m : Matrix) : Matrix :=
  Matrix.ofFn fun i c =>
    byteMul (Matrix.entry x i 0) (Matrix.entry m 0 c) ^^^ byteMul (Matrix.entry x i 1) (Matrix.entry m 1 c) ^^^
      byteMul (Matrix.entry x i 2) (Matrix.entry m 2 c) ^^^ byteMul (Matrix.entry x i 3) (Matrix.entry m 3 c)

/-- `mixColumns(M, direction)` (R155). -/
def mixColumns (dir : Direction) (m : Matrix) : Matrix := mixProduct (mixMatrix dir) m

/-- `addRoundKey(M, K)` (R156). -/
def addRoundKey (m k : Matrix) : Matrix := Matrix.ofFn fun r c => Matrix.entry m r c ^^^ Matrix.entry k r c

/-- `S[idx mod 4][idx div 4]` (R159). -/
def Matrix.getFlat (m : Matrix) (i : FlatIndex) : Byte := Matrix.entry m (flatRow i) (flatCol i)

/-- `S[idx mod 4][idx div 4] <- b` (R160). -/
def Matrix.setFlat (m : Matrix) (i : FlatIndex) (b : Byte) : Matrix :=
  m.set (flatRow i) ((m[flatRow i]).set (flatCol i) b)

/-- `ST.LD addr, len` (R157). -/
def execStLd (addr : Addr) (len : Len) (s : State) : Outcome :=
  runCommand s do
    let seq ← blockOperand s addr len
    return s.writeMatrix (toState seq)

/-- `ST.ST addr, len` (R158). -/
def execStSt (addr : Addr) (len : Len) (s : State) : Outcome :=
  runCommand s do
    let n ← blockLength len
    memWrite s addr ((fromState s.matrix).toList.take n)

/-- `ST.GET pd, idx` (R159). -/
def execStGet (d : Reg) (idx : FlatIndex) (s : State) : Outcome :=
  runCommand s (.ok (s.writeByte d (Matrix.getFlat s.matrix idx)))

/-- `ST.SET ps, idx` (R160). -/
def execStSet (r : Reg) (idx : FlatIndex) (s : State) : Outcome :=
  runCommand s do
    let b ← byteOperand s r
    return s.writeMatrix (Matrix.setFlat s.matrix idx b)

/-- `SUBBYTES` (R161). -/
def execSubbytes (s : State) : Outcome :=
  runCommand s do
    needBox s
    return s.writeMatrix (byteSubstitution s.matrix s.fwd)

/-- `ISUBBYTES` (R162). -/
def execIsubbytes (s : State) : Outcome :=
  runCommand s do
    needBox s
    return s.writeMatrix (byteSubstitution s.matrix s.inv)

/-- `SHIFTROWS` (R163). -/
def execShiftrows (s : State) : Outcome := runCommand s (.ok (s.writeMatrix (shiftRows .forward s.matrix)))

/-- `ISHIFTROWS` (R164). -/
def execIshiftrows (s : State) : Outcome := runCommand s (.ok (s.writeMatrix (shiftRows .inverse s.matrix)))

/-- `MIXCOLS` (R165). -/
def execMixcols (s : State) : Outcome := runCommand s (.ok (s.writeMatrix (mixColumns .forward s.matrix)))

/-- `IMIXCOLS` (R166). -/
def execImixcols (s : State) : Outcome := runCommand s (.ok (s.writeMatrix (mixColumns .inverse s.matrix)))

/-- `ARK k` (R167). -/
def execArk (k : Fin 16) (s : State) : Outcome :=
  runCommand s do
    needKey s
    let key ← roundKeyOperand s k.val
    return s.writeMatrix (addRoundKey s.matrix key)

/-- `ARKM addr, len` (R168). -/
def execArkm (addr : Addr) (len : Len) (s : State) : Outcome :=
  runCommand s do
    let seq ← blockOperand s addr len
    return s.writeMatrix (addRoundKey s.matrix (toState seq))

end Sys2Proof.Machine
end

