-- ==== Sys2Proof/Machine/KeySchedule.lean ====
section
/-! DEFINITION. The key schedule, the configuration command and the reading of round keys (43_keyschedule.md). -/

namespace Sys2Proof.Machine

/-- A key-schedule word, `[b0, b1, b2, b3]`, the first byte the most significant (00_scope.md glossary; R180). -/
abbrev KeyWord := Vector Byte 4

/-- The switch `KS_T_ARG` of this unit: `BOUNDARY`, the spec's default (R183; 92_eei_decisions.md D16). Log entry 4. -/
def ksTArg : KsTArg := .boundary

/-- `⊕` of two words, byte by byte (R183). -/
def xorWord (x y : KeyWord) : KeyWord := Vector.ofFn fun j => x[j] ^^^ y[j]

/-- `rcon(ri) = (1 << ri) mod 256` (R185). -/
def rcon (ri : Nat) : Byte := BitVec.ofNat 8 (1 <<< ri)

/-- `T(word, ri)`: rotate left by one byte, substitute through FWD, XOR the round constant into the first byte (R182). -/
def tWord (fwd : Table) (w : KeyWord) (ri : Nat) : KeyWord :=
  #v[Table.lookup fwd w[1] ^^^ rcon ri, Table.lookup fwd w[2], Table.lookup fwd w[3], Table.lookup fwd w[0]]

/-- Word `i` of the raw key: bytes `4i` to `4i+3` in order (R181; 20_memory.md R53). -/
def keyWord (key : List Byte) (i : Nat) : KeyWord := Vector.ofFn fun j => key.getD (4 * i + j.val) 0

/-- Word `i` of the words computed so far. -/
def wordAt (w : List KeyWord) (i : Nat) : KeyWord := w.getD i (Vector.replicate 4 0)

/-- The word of index `i`, from the words before it, with the round index `ri` of R183's boundary case. -/
def nextWord (arg : KsTArg) (fwd : Table) (nk i ri : Nat) (w : List KeyWord) : KeyWord :=
  if i % nk = 0 then
    match arg with
    | .boundary => xorWord (wordAt w (i - 1)) (tWord fwd (wordAt w (i - nk)) ri)
    | .previous => xorWord (wordAt w (i - 1)) (tWord fwd (wordAt w (i - 1)) ri)
  else xorWord (wordAt w (i - 1)) (wordAt w (i - nk))

/-- The recurrence of R183 for `n` more words from index `i` on; `ri` grows at each boundary case. -/
def expandLoop (arg : KsTArg) (fwd : Table) (nk : Nat) : (n i ri : Nat) → (w : List KeyWord) → List KeyWord
  | 0, _, _, w => w
  | n + 1, i, ri, w =>
    expandLoop arg fwd nk n (i + 1) (if i % nk = 0 then ri + 1 else ri) (w ++ [nextWord arg fwd nk i ri w])

/-- The words `w[0..W-1]` of the schedule, `W = 4 * (Nr + 1)` (R180, R181, R183). -/
def scheduleWords (arg : KsTArg) (key : List Byte) (ks : KeySize) (fwd : Table) : List KeyWord :=
  expandLoop arg fwd ks.nk (4 * (ks.nr + 1) - ks.nk) ks.nk 1 ((List.range ks.nk).map (keyWord key))

/-- Round key `k`: word `4k + c` is column `c`, byte `j` of the word in row `j` (R184). -/
def packRoundKey (w : List KeyWord) (k : Nat) : Matrix := Matrix.ofFn fun j c => (wordAt w (4 * k + c.val))[j]

/-- `RK[0..Nr] <- Expand(key, KS, FWD)`, the entries above Nr left as they were (R183, R187; 10_state.md R30). -/
def expandInto (arg : KsTArg) (old : RoundKeys) (key : List Byte) (ks : KeySize) (fwd : Table) : RoundKeys :=
  let w := scheduleWords arg key ks fwd
  Vector.ofFn fun k => if k.val ≤ ks.nr then packRoundKey w k.val else old[k]

/-- `CFG imm16` (R186): `KEY_PARAM` is checked before `CHAIN_MODE`, and KV is cleared whatever changes. -/
def execCfg (imm : BitVec 16) (s : State) : Outcome :=
  runCommand s do
    let ks ← keySizeOperand imm
    let mode ← chainModeOperand imm
    return (s.writeCtrl { ks := ks, mode := mode }).invalidateKey

/-- `KEXP addr, len` (R187). -/
def execKexp (addr : Addr) (len : Len) (s : State) : Outcome :=
  runCommand s do
    needBox s
    let key ← keyOperand s addr len
    return (s.writeRoundKeys (expandInto ksTArg s.rk key s.ctrl.ks s.fwd)).markKeyExpanded

/-- `RK.ST addr, k` (R188). -/
def execRkSt (addr : Addr) (k : Fin 64) (s : State) : Outcome :=
  runCommand s do
    needKey s
    let key ← roundKeyOperand s k.val
    memWrite s addr (fromState key).toList

end Sys2Proof.Machine
end

