-- ==== Sys2Proof/Machine/Cipher.lean ====
section
/-! DEFINITION. The cipher core, one block forward and inverse (44_cipher.md). -/

namespace Sys2Proof.Machine

/-- Full round `i` of `Encrypt` (R200). -/
def encryptRound (rk : RoundKeys) (fwd : Table) (m : Matrix) (i : Nat) : Matrix :=
  addRoundKey (mixColumns .forward (shiftRows .forward (byteSubstitution m fwd))) (roundKey rk i)

/-- Full rounds 1 to `n`, in ascending order (R200). -/
def encryptRounds (rk : RoundKeys) (fwd : Table) : (n : Nat) → Matrix → Matrix
  | 0, m => m
  | n + 1, m => encryptRound rk fwd (encryptRounds rk fwd n m) (n + 1)

/-- `Encrypt(M, RK, FWD, Nr)` (R200): the final round has no `mixColumns`. -/
def encrypt (rk : RoundKeys) (fwd : Table) (nr : Nat) (m : Matrix) : Matrix :=
  addRoundKey
    (shiftRows .forward (byteSubstitution (encryptRounds rk fwd (nr - 1) (addRoundKey m (roundKey rk 0))) fwd))
    (roundKey rk nr)

/-- The pass of the loop of `Decrypt` for round `i` (R201). -/
def decryptRound (rk : RoundKeys) (inv : Table) (m : Matrix) (i : Nat) : Matrix :=
  mixColumns .inverse (addRoundKey (byteSubstitution (shiftRows .inverse m) inv) (roundKey rk i))

/-- The passes for `i` from `n` down to 1 (R201). -/
def decryptRounds (rk : RoundKeys) (inv : Table) : (n : Nat) → Matrix → Matrix
  | 0, m => m
  | n + 1, m => decryptRounds rk inv n (decryptRound rk inv m (n + 1))

/-- `Decrypt(M, RK, INV, Nr)` (R201): the round keys unchanged and in reverse order. -/
def decrypt (rk : RoundKeys) (inv : Table) (nr : Nat) (m : Matrix) : Matrix :=
  addRoundKey
    (byteSubstitution (shiftRows .inverse (decryptRounds rk inv (nr - 1) (addRoundKey m (roundKey rk nr)))) inv)
    (roundKey rk 0)

/-- `Encrypt` with the unit's round keys, box and Nr (R203). -/
def State.encryptMatrix (s : State) (m : Matrix) : Matrix := encrypt s.rk s.fwd s.ctrl.ks.nr m

/-- `Decrypt` with the unit's round keys, box and Nr (R204). -/
def State.decryptMatrix (s : State) (m : Matrix) : Matrix := decrypt s.rk s.inv s.ctrl.ks.nr m

/-- `ENCB` (R203). -/
def execEncb (s : State) : Outcome :=
  runCommand s do
    needKey s
    return s.writeMatrix (s.encryptMatrix s.matrix)

/-- `DECB` (R204). -/
def execDecb (s : State) : Outcome :=
  runCommand s do
    needKey s
    return s.writeMatrix (s.decryptMatrix s.matrix)

end Sys2Proof.Machine
end

