-- ==== Sys2Proof/Machine/Chaining.lean ====
section
/-! DEFINITION. Block chaining in the modes ECB, CBC, OFB and CFB (45_chaining.md). -/

namespace Sys2Proof.Machine

/-- `⊕` of two blocks, byte by byte at equal flat index (45_chaining.md, opening). -/
def xorBlock (x y : Block) : Block := Vector.ofFn fun i => x[i] ^^^ y[i]

/-- `E(B)`, the block function forward (45_chaining.md, opening). -/
def State.encryptBlock (s : State) (b : Block) : Block := fromState (s.encryptMatrix (blockToState b))

/-- `D(B)`, the block function inverse (45_chaining.md, opening). -/
def State.decryptBlock (s : State) (b : Block) : Block := fromState (s.decryptMatrix (blockToState b))

/-- The result block `Y` and the new chain register of `CH.ENC` for the block `x` (R212 to R215, R217). -/
def State.chainEncrypt (s : State) (x : Block) : Block × Block :=
  match s.ctrl.mode with
  | .ecb => (s.encryptBlock x, s.chain)
  | .cbc => (s.encryptBlock (xorBlock x s.chain), s.encryptBlock (xorBlock x s.chain))
  | .ofb => (xorBlock x (s.encryptBlock s.chain), s.encryptBlock s.chain)
  | .cfb => (xorBlock x (s.encryptBlock s.chain), xorBlock x (s.encryptBlock s.chain))

/-- The result block `Y` and the new chain register of `CH.DEC` for the block `x` (R212 to R215, R218). -/
def State.chainDecrypt (s : State) (x : Block) : Block × Block :=
  match s.ctrl.mode with
  | .ecb => (s.decryptBlock x, s.chain)
  | .cbc => (xorBlock (s.decryptBlock x) s.chain, x)
  | .ofb => (xorBlock x (s.encryptBlock s.chain), s.encryptBlock s.chain)
  | .cfb => (xorBlock x (s.encryptBlock s.chain), x)

/-- `S <- ToState(Y)` and `R <- R'` (R217, R218). -/
def State.writeChained (s : State) (y : Block × Block) : State := (s.writeMatrix (blockToState y.1)).writeChain y.2

/-- `CH.INIT` (R216). -/
def execChInit (s : State) : Outcome := runCommand s (.ok (s.writeChain (Vector.replicate 16 0)))

/-- `CH.ENC` (R217). -/
def execChEnc (s : State) : Outcome :=
  runCommand s do
    needKey s
    return s.writeChained (s.chainEncrypt (fromState s.matrix))

/-- `CH.DEC` (R218). -/
def execChDec (s : State) : Outcome :=
  runCommand s do
    needKey s
    return s.writeChained (s.chainDecrypt (fromState s.matrix))

/-- `CH.ST addr` (R219). -/
def execChSt (addr : Addr) (s : State) : Outcome := runCommand s (memWrite s addr s.chain.toList)

end Sys2Proof.Machine
end

