-- ==== Sys2Proof/Machine/FieldUnit.lean ====
section
/-! DEFINITION. The commands of the GF(256) polynomial arithmetic unit (40_gf256.md part 2). -/

namespace Sys2Proof.Machine

/-- `GF.LI pd, imm16` (R110). -/
def execGfLi (d : Reg) (imm : BitVec 16) (s : State) : Outcome := runCommand s (.ok (s.writeP d imm))

/-- `GF.MOV pd, pa` (R111). -/
def execGfMov (d a : Reg) (s : State) : Outcome := runCommand s (.ok (s.writeP d s.p[a]))

/-- `GF.ADD pd, pa, pb`, on all 16 bits (R112). -/
def execGfAdd (d a b : Reg) (s : State) : Outcome :=
  runCommand s (.ok (s.writePoly d (polyAdd (s.poly a) (s.poly b))))

/-- `GF.DEG pd, pa` (R113). -/
def execGfDeg (d a : Reg) (s : State) : Outcome := runCommand s (.ok (s.writePoly d (polyDeg (s.poly a))))

/-- `GF.DIV pd, pa, pb` (R114). -/
def execGfDiv (d a b : Reg) (s : State) : Outcome :=
  runCommand s
    (if s.poly b = 0 then .error .divZero else .ok (s.writePoly d (polyQuot (s.poly a) (s.poly b))))

/-- `GF.REM pd, pa, pb` (R115). -/
def execGfRem (d a b : Reg) (s : State) : Outcome :=
  runCommand s
    (if s.poly b = 0 then .error .divZero else .ok (s.writePoly d (polyRem (s.poly a) (s.poly b))))

/-- `GF.MUL pd, pa, pb` (R116). -/
def execGfMul (d a b : Reg) (s : State) : Outcome :=
  runCommand s (.ok (s.writePoly d (polyMul (s.poly a) (s.poly b))))

/-- `GF.XGCD pd, pa, pb`: three destinations, `p[d]`, `p[(d+1) mod 8]` and `p[(d+2) mod 8]`, written after both sources
are read (R117). -/
def execGfXgcd (d a b : Reg) (s : State) : Outcome :=
  runCommand s
    (match xgcd (s.poly a) (s.poly b) with
    | (g, ca, cb) => .ok (((s.writePoly d g).writePoly (d + 1) ca).writePoly (d + 2) cb))

/-- `GF.INV pd, pa` (R118). -/
def execGfInv (d a : Reg) (s : State) : Outcome := runCommand s (.ok (s.writePoly d (polyInv (s.poly a))))

/-- `GF.CMP pd, pa, pb` (R119). -/
def execGfCmp (d a b : Reg) (s : State) : Outcome :=
  runCommand s (.ok (s.writePoly d (polyCompare (s.poly a) (s.poly b))))

/-- `GF.LDB pd, addr` (R120). -/
def execGfLdb (d : Reg) (addr : Addr) (s : State) : Outcome :=
  runCommand s (.ok (s.writeByte d (Memory.read s.dmem addr.toNat)))

/-- `GF.STB ps, addr` (R121). -/
def execGfStb (r : Reg) (addr : Addr) (s : State) : Outcome :=
  runCommand s do
    let b ← byteOperand s r
    memWrite s addr [b]

end Sys2Proof.Machine
end

