-- ==== Sys2Proof/Machine/System.lean ====
section
/-! DEFINITION. The command that acts on nothing (60_exceptions.md part 5). -/

namespace Sys2Proof.Machine

/-- `NOP` (60_exceptions.md R246). -/
def execNop (s : State) : Outcome := runCommand s (.ok s)

end Sys2Proof.Machine
end

