-- ==== Sys2Proof/Machine/Dispatch.lean ====
section
/-! DEFINITION. One arm for each command (30_encoding.md R74). -/

namespace Sys2Proof.Machine

def exec (i : Instr) (s : State) : Host.Outcome State Fault Refusal :=
  match i with
  | .nop => Sys2Proof.Machine.execNop s
  | .gfLi d imm => Sys2Proof.Machine.execGfLi d imm s
  | .gfMov d a => Sys2Proof.Machine.execGfMov d a s
  | .gfAdd d a b => Sys2Proof.Machine.execGfAdd d a b s
  | .gfDeg d a => Sys2Proof.Machine.execGfDeg d a s
  | .gfDiv d a b => Sys2Proof.Machine.execGfDiv d a b s
  | .gfRem d a b => Sys2Proof.Machine.execGfRem d a b s
  | .gfMul d a b => Sys2Proof.Machine.execGfMul d a b s
  | .gfXgcd d a b => Sys2Proof.Machine.execGfXgcd d a b s
  | .gfInv d a => Sys2Proof.Machine.execGfInv d a s
  | .gfCmp d a b => Sys2Proof.Machine.execGfCmp d a b s
  | .gfLdb d addr => Sys2Proof.Machine.execGfLdb d addr s
  | .gfStb r addr => Sys2Proof.Machine.execGfStb r addr s
  | .seedLo imm => Sys2Proof.Machine.execSeedLo imm s
  | .seedHi imm => Sys2Proof.Machine.execSeedHi imm s
  | .sbBuild => Sys2Proof.Machine.execSbBuild s
  | .sbFwd d a => Sys2Proof.Machine.execSbFwd d a s
  | .sbInv d a => Sys2Proof.Machine.execSbInv d a s
  | .sbAff d a => Sys2Proof.Machine.execSbAff d a s
  | .sbBrev d a => Sys2Proof.Machine.execSbBrev d a s
  | .stLd addr len => Sys2Proof.Machine.execStLd addr len s
  | .stSt addr len => Sys2Proof.Machine.execStSt addr len s
  | .stGet d idx => Sys2Proof.Machine.execStGet d idx s
  | .stSet r idx => Sys2Proof.Machine.execStSet r idx s
  | .subbytes => Sys2Proof.Machine.execSubbytes s
  | .isubbytes => Sys2Proof.Machine.execIsubbytes s
  | .shiftrows => Sys2Proof.Machine.execShiftrows s
  | .ishiftrows => Sys2Proof.Machine.execIshiftrows s
  | .mixcols => Sys2Proof.Machine.execMixcols s
  | .imixcols => Sys2Proof.Machine.execImixcols s
  | .ark k => Sys2Proof.Machine.execArk k s
  | .arkm addr len => Sys2Proof.Machine.execArkm addr len s
  | .cfg imm => Sys2Proof.Machine.execCfg imm s
  | .kexp addr len => Sys2Proof.Machine.execKexp addr len s
  | .rkSt addr k => Sys2Proof.Machine.execRkSt addr k s
  | .encb => Sys2Proof.Machine.execEncb s
  | .decb => Sys2Proof.Machine.execDecb s
  | .chInit => Sys2Proof.Machine.execChInit s
  | .chEnc => Sys2Proof.Machine.execChEnc s
  | .chDec => Sys2Proof.Machine.execChDec s
  | .chSt addr => Sys2Proof.Machine.execChSt addr s

end Sys2Proof.Machine
end

