-- ==== Sys2Proof/Machine/HostPort.lean ====
section
/-! DEFINITION. What each action of the host does (70_reset_and_hazards.md R260, R264; 10_state.md R35; 20_memory.md
R61; 60_exceptions.md R232). -/

namespace Sys2Proof.Machine

/-- A word that is no command (30_encoding.md R75): `ILLEGAL_CMD`, or nothing in the halted state (60_exceptions.md
R232). -/
def illegalCommand (s : State) : Outcome := runCommand s (.error .illegalCmd)

/-- A command word on the command port (30_encoding.md R76). R232 puts the halted check before decode; decoding reads
and writes no state, and every meaning and `illegalCommand` begin with that check. -/
def issueWord (w : CommandWord) (s : State) : Outcome :=
  match decodeWord w with
  | .ok i => exec i s
  | .error _ => illegalCommand s

/-- The word the register port shows at an index (10_state.md R35). -/
def State.readPort (s : State) (index : BitVec 4) : PortWord :=
  if h : index.toNat < 8 then (s.p[index.toNat]).setWidth 32
  else if index = 8 then s.ctrl.word
  else if index = 9 then s.status.word
  else if index = 10 then s.seed
  else 0

/-- The byte the host reads on the DMEM port (20_memory.md R61). -/
def State.hostReadDmem (s : State) (addr : Addr) : Byte := Memory.read s.dmem addr.toNat

/-- The host writes a byte on the DMEM port (20_memory.md R61), in the halted state too (60_exceptions.md R232). -/
def hostWriteDmem (addr : Addr) (data : Byte) (s : State) : State :=
  s.writeDmem (Memory.write s.dmem addr.toNat data)

/-- What one action of the host does (70_reset_and_hazards.md R264); the two reads have no side effect (10_state.md R35;
20_memory.md R57). -/
def hostAct (a : HostAction) (s : State) : Outcome :=
  match a with
  | .reset => .next (applyReset s)
  | .command w => issueWord w s
  | .writeDmem addr data => .next (hostWriteDmem addr data s)
  | .readDmem _ => .next s
  | .readPort _ => .next s

/-- The host puts `a` before its other pending actions. -/
def State.withNextAction (s : State) (a : HostAction) : State := s.writeHost (a :: s.host)

end Sys2Proof.Machine
end

