-- ==== Sys2Proof/Machine/Step.lean ====
section
/-! DEFINITION. One step: the host's next action, or an idle unit (70_reset_and_hazards.md R263, R264; 60_exceptions.md
R243). -/

namespace Sys2Proof.Machine

/-- One step. The unit has no program counter (10_state.md R22): the next action is the first the host has pending, and
with none pending the unit is idle and holds its state (60_exceptions.md R243). -/
def step (s : State) : Host.Outcome State Fault Refusal :=
  match s.host with
  | [] => .next s
  | a :: rest => hostAct a (s.writeHost rest)

/-- `s` with the command word `w` the host's next action. -/
def State.withFetchWord (s : State) (nbits w : Nat) : State :=
  s.withNextAction (.command (BitVec.ofNat 32 (w % 2 ^ nbits)))

end Sys2Proof.Machine
end

