-- ==== Sys2Proof/Laws/Encoding.lean ====
section
/-! SUPPORT. The value of each format's word, what each mask leaves of it, and the fields cut from a word
(30_encoding.md R71 to R74). -/

namespace Sys2Proof

theorem toNat_append_add {m n : Nat} (x : BitVec m) (y : BitVec n) :
    (x ++ y).toNat = x.toNat * 2 ^ n + y.toNat := by
  rw [BitVec.toNat_append, ← Nat.shiftLeft_add_eq_or_of_lt y.isLt, Nat.shiftLeft_eq]

@[simp] theorem toNat_regField (r : Reg) : (regField r).toNat = r.val := by
  simp only [regField, BitVec.toNat_ofNat]; omega

/-! ### The fields of a word -/

theorem fieldRd_val (w : CommandWord) : (fieldRd w).val = w.toNat / 2 ^ 20 % 8 := by
  simp [fieldRd, Nat.shiftRight_eq_div_pow]

theorem fieldRa_val (w : CommandWord) : (fieldRa w).val = w.toNat / 2 ^ 16 % 8 := by
  simp [fieldRa, Nat.shiftRight_eq_div_pow]

theorem fieldRb_val (w : CommandWord) : (fieldRb w).val = w.toNat / 2 ^ 12 % 8 := by
  simp [fieldRb, Nat.shiftRight_eq_div_pow]

theorem fieldImm_toNat (w : CommandWord) : (fieldImm w).toNat = w.toNat % 2 ^ 16 := by simp [fieldImm]

theorem fieldAddr_toNat (w : CommandWord) : (fieldAddr w).toNat = w.toNat % 2 ^ 8 := by simp [fieldAddr]

theorem fieldLen_val (w : CommandWord) : (fieldLen w).val = w.toNat / 2 ^ 8 % 64 := by
  simp [fieldLen, Nat.shiftRight_eq_div_pow]

theorem fieldIdx_val (w : CommandWord) : (fieldIdx w).val = w.toNat % 16 := by simp [fieldIdx]

/-! ### The words of the formats -/

theorem toNat_formatN (op : BitVec 8) : (formatN op).toNat = op.toNat * 2 ^ 24 := by
  change (op ++ 0#24).toNat = _; simp only [toNat_append_add]; simp

theorem toNat_formatR3 (op : BitVec 8) (d a b : Reg) :
    (formatR3 op d a b).toNat = op.toNat * 2 ^ 24 + d.val * 2 ^ 20 + a.val * 2 ^ 16 + b.val * 2 ^ 12 := by
  change (op ++ regField d ++ regField a ++ regField b ++ 0#12).toNat = _
  simp only [toNat_append_add, toNat_regField]; simp; omega

theorem toNat_formatR2 (op : BitVec 8) (d a : Reg) :
    (formatR2 op d a).toNat = op.toNat * 2 ^ 24 + d.val * 2 ^ 20 + a.val * 2 ^ 16 := by
  change (op ++ regField d ++ regField a ++ 0#16).toNat = _
  simp only [toNat_append_add, toNat_regField]; simp; omega

theorem toNat_formatI (op : BitVec 8) (d : Reg) (imm : BitVec 16) :
    (formatI op d imm).toNat = op.toNat * 2 ^ 24 + d.val * 2 ^ 20 + imm.toNat := by
  change (op ++ regField d ++ 0#4 ++ imm).toNat = _
  simp only [toNat_append_add, toNat_regField]; simp; omega

theorem toNat_formatI0 (op : BitVec 8) (imm : BitVec 16) :
    (formatI0 op imm).toNat = op.toNat * 2 ^ 24 + imm.toNat := by
  change (op ++ 0#8 ++ imm).toNat = _
  simp only [toNat_append_add]; simp; omega

theorem toNat_formatRM (op : BitVec 8) (r : Reg) (addr : Addr) :
    (formatRM op r addr).toNat = op.toNat * 2 ^ 24 + r.val * 2 ^ 20 + addr.toNat := by
  change (op ++ regField r ++ 0#12 ++ addr).toNat = _
  simp only [toNat_append_add, toNat_regField]; simp; omega

theorem toNat_formatRX (op : BitVec 8) (r : Reg) (idx : FlatIndex) :
    (formatRX op r idx).toNat = op.toNat * 2 ^ 24 + r.val * 2 ^ 20 + idx.val := by
  change (op ++ regField r ++ 0#16 ++ BitVec.ofNat 4 idx.val).toNat = _
  simp only [toNat_append_add, toNat_regField]; simp; omega

theorem toNat_formatX (op : BitVec 8) (k : Fin 16) : (formatX op k).toNat = op.toNat * 2 ^ 24 + k.val := by
  change (op ++ 0#20 ++ BitVec.ofNat 4 k.val).toNat = _
  simp only [toNat_append_add]; simp; omega

theorem toNat_formatM (op : BitVec 8) (addr : Addr) (len : Len) :
    (formatM op addr len).toNat = op.toNat * 2 ^ 24 + len.val * 2 ^ 8 + addr.toNat := by
  change (op ++ 0#10 ++ BitVec.ofNat 6 len.val ++ addr).toNat = _
  simp only [toNat_append_add]; simp; omega

/-! ### What a mask leaves -/

theorem regField_and_eight (r : Reg) : regField r &&& 8#4 = 0#4 := by revert r; decide

theorem and_ff (x : BitVec 8) : x &&& 0xFF#8 = x := by
  have h := BitVec.and_allOnes (x := x); simpa using h

theorem mask_formatR3 (op : BitVec 8) (d a b : Reg) : formatR3 op d a b &&& 0xFF888FFF#32 = formatN op := by
  have hm : (0xFF888FFF#32 : CommandWord) = 0xFF#8 ++ 8#4 ++ 8#4 ++ 8#4 ++ 0xFFF#12 := by decide
  have h : (op ++ regField d ++ regField a ++ regField b ++ 0#12) &&& (0xFF#8 ++ 8#4 ++ 8#4 ++ 8#4 ++ 0xFFF#12) =
      op ++ 0#4 ++ 0#4 ++ 0#4 ++ 0#12 := by
    simp only [BitVec.and_append, regField_and_eight, and_ff, BitVec.zero_and]
  rw [hm]
  exact h.trans (by clear h hm; revert op; decide)

theorem mask_formatR2 (op : BitVec 8) (d a : Reg) : formatR2 op d a &&& 0xFF88FFFF#32 = formatN op := by
  have hm : (0xFF88FFFF#32 : CommandWord) = 0xFF#8 ++ 8#4 ++ 8#4 ++ 0xFFFF#16 := by decide
  have h : (op ++ regField d ++ regField a ++ 0#16) &&& (0xFF#8 ++ 8#4 ++ 8#4 ++ 0xFFFF#16) =
      op ++ 0#4 ++ 0#4 ++ 0#16 := by
    simp only [BitVec.and_append, regField_and_eight, and_ff, BitVec.zero_and]
  rw [hm]
  exact h.trans (by clear h hm; revert op; decide)

theorem mask_formatI (op : BitVec 8) (d : Reg) (imm : BitVec 16) :
    formatI op d imm &&& 0xFF8F0000#32 = formatN op := by
  have hm : (0xFF8F0000#32 : CommandWord) = 0xFF#8 ++ 8#4 ++ 0xF#4 ++ 0#16 := by decide
  have h : (op ++ regField d ++ 0#4 ++ imm) &&& (0xFF#8 ++ 8#4 ++ 0xF#4 ++ 0#16) = op ++ 0#4 ++ 0#4 ++ 0#16 := by
    simp only [BitVec.and_append, regField_and_eight, and_ff, BitVec.zero_and, BitVec.and_zero]
  rw [hm]
  exact h.trans (by clear h hm; revert op; decide)

theorem mask_formatI0 (op : BitVec 8) (imm : BitVec 16) : formatI0 op imm &&& 0xFFFF0000#32 = formatN op := by
  have hm : (0xFFFF0000#32 : CommandWord) = 0xFF#8 ++ 0xFF#8 ++ 0#16 := by decide
  have h : (op ++ 0#8 ++ imm) &&& (0xFF#8 ++ 0xFF#8 ++ 0#16) = op ++ 0#8 ++ 0#16 := by
    simp only [BitVec.and_append, and_ff, BitVec.and_zero]
  rw [hm]
  exact h.trans (by clear h hm; revert op; decide)

theorem mask_formatRM (op : BitVec 8) (r : Reg) (addr : Addr) :
    formatRM op r addr &&& 0xFF8FFF00#32 = formatN op := by
  have hm : (0xFF8FFF00#32 : CommandWord) = 0xFF#8 ++ 8#4 ++ 0xFFF#12 ++ 0#8 := by decide
  have h : (op ++ regField r ++ 0#12 ++ addr) &&& (0xFF#8 ++ 8#4 ++ 0xFFF#12 ++ 0#8) = op ++ 0#4 ++ 0#12 ++ 0#8 := by
    simp only [BitVec.and_append, regField_and_eight, and_ff, BitVec.zero_and, BitVec.and_zero]
  rw [hm]
  exact h.trans (by clear h hm; revert op; decide)

theorem mask_formatRX (op : BitVec 8) (r : Reg) (idx : FlatIndex) :
    formatRX op r idx &&& 0xFF8FFFF0#32 = formatN op := by
  have hm : (0xFF8FFFF0#32 : CommandWord) = 0xFF#8 ++ 8#4 ++ 0xFFFF#16 ++ 0#4 := by decide
  have h : (op ++ regField r ++ 0#16 ++ BitVec.ofNat 4 idx.val) &&& (0xFF#8 ++ 8#4 ++ 0xFFFF#16 ++ 0#4) =
      op ++ 0#4 ++ 0#16 ++ 0#4 := by
    simp only [BitVec.and_append, regField_and_eight, and_ff, BitVec.zero_and, BitVec.and_zero]
  rw [hm]
  exact h.trans (by clear h hm; revert op; decide)

theorem mask_formatX (op : BitVec 8) (k : Fin 16) : formatX op k &&& 0xFFFFFFF0#32 = formatN op := by
  have hm : (0xFFFFFFF0#32 : CommandWord) = 0xFF#8 ++ 0xFFFFF#20 ++ 0#4 := by decide
  have h : (op ++ 0#20 ++ BitVec.ofNat 4 k.val) &&& (0xFF#8 ++ 0xFFFFF#20 ++ 0#4) = op ++ 0#20 ++ 0#4 := by
    simp only [BitVec.and_append, and_ff, BitVec.zero_and, BitVec.and_zero]
  rw [hm]
  exact h.trans (by clear h hm; revert op; decide)

theorem mask_formatM (op : BitVec 8) (addr : Addr) (len : Len) :
    formatM op addr len &&& 0xFFFFC000#32 = formatN op := by
  have hm : (0xFFFFC000#32 : CommandWord) = 0xFF#8 ++ 0x3FF#10 ++ 0#6 ++ 0#8 := by decide
  have h : (op ++ 0#10 ++ BitVec.ofNat 6 len.val ++ addr) &&& (0xFF#8 ++ 0x3FF#10 ++ 0#6 ++ 0#8) =
      op ++ 0#10 ++ 0#6 ++ 0#8 := by
    simp only [BitVec.and_append, and_ff, BitVec.zero_and, BitVec.and_zero]
  rw [hm]
  exact h.trans (by clear h hm; revert op; decide)

/-- `CH.ST`: format M with the `len` field in the mask. -/
theorem mask_formatM_zero (op : BitVec 8) (addr : Addr) : formatM op addr 0 &&& 0xFFFFFF00#32 = formatN op := by
  have hm : (0xFFFFFF00#32 : CommandWord) = 0xFF#8 ++ 0x3FF#10 ++ 0x3F#6 ++ 0#8 := by decide
  have h : (op ++ 0#10 ++ BitVec.ofNat 6 0 ++ addr) &&& (0xFF#8 ++ 0x3FF#10 ++ 0x3F#6 ++ 0#8) =
      op ++ 0#10 ++ 0#6 ++ 0#8 := by
    simp only [BitVec.and_append, and_ff, BitVec.zero_and, BitVec.and_zero]
  rw [hm]
  exact h.trans (by clear h hm; revert op; decide)

/-- `CFG`: format I0 with `imm16[15:5]` in the mask, for an immediate below 32. -/
theorem mask_formatI0_cfg (op : BitVec 8) (imm : BitVec 16) (h0 : imm.extractLsb' 5 11 = 0#11) :
    formatI0 op imm &&& 0xFFFFFFE0#32 = formatN op := by
  have hm : (0xFFFFFFE0#32 : CommandWord) = 0xFF#8 ++ 0xFF#8 ++ 0xFFE0#16 := by decide
  have hn : imm.toNat < 32 := by
    have := congrArg BitVec.toNat h0
    simp [Nat.shiftRight_eq_div_pow] at this
    omega
  have hi : imm &&& 0xFFE0#16 = 0#16 := by
    have hb : ∀ n : Fin 32, BitVec.ofNat 16 n.val &&& 0xFFE0#16 = 0#16 := by decide
    have := hb ⟨imm.toNat, hn⟩
    simpa using this
  have h : (op ++ 0#8 ++ imm) &&& (0xFF#8 ++ 0xFF#8 ++ 0xFFE0#16) = op ++ 0#8 ++ 0#16 := by
    simp only [BitVec.and_append, and_ff, hi]
  rw [hm]
  exact h.trans (by clear h hm hi hn; revert op; decide)

end Sys2Proof
end

