-- ==== Sys2Proof/Laws/PerInstr.lean ====
section
/-! SUPPORT. The family TableRow: every well-formed command has a row of the opcode map that its word matches and that
cuts its own operands from that word (30_encoding.md R74, R76). One lemma for each constructor. -/

namespace Sys2Proof.Laws.TableRow

/-- Some row of R74 matches the word of `i` and gives `i` back from it. -/
def Statement (i : Instr) : Prop :=
  i.WellFormed → ∃ r ∈ commandRows, r.matches (encode i) = true ∧ r.build (encode i) = i

/-- A row of the map at a position, for the lemmas below. -/
theorem of_row {i : Instr} (n : Nat) (h : n < commandRows.length)
    (hm : encode i &&& (commandRows[n]).mask = (commandRows[n]).bits) (hb : (commandRows[n]).build (encode i) = i) :
    ∃ r ∈ commandRows, r.matches (encode i) = true ∧ r.build (encode i) = i :=
  ⟨commandRows[n], List.getElem_mem h, by simp only [Row.matches, hm, beq_self_eq_true], hb⟩

theorem fieldRd_formatR3 (op : BitVec 8) (d : Reg) (a : Reg) (b : Reg) : fieldRd (formatR3 op d a b) = d := by
  apply Fin.eq_of_val_eq; rw [fieldRd_val, toNat_formatR3]; omega

theorem fieldRa_formatR3 (op : BitVec 8) (d : Reg) (a : Reg) (b : Reg) : fieldRa (formatR3 op d a b) = a := by
  apply Fin.eq_of_val_eq; rw [fieldRa_val, toNat_formatR3]; omega

theorem fieldRb_formatR3 (op : BitVec 8) (d : Reg) (a : Reg) (b : Reg) : fieldRb (formatR3 op d a b) = b := by
  apply Fin.eq_of_val_eq; rw [fieldRb_val, toNat_formatR3]; omega

theorem fieldRd_formatR2 (op : BitVec 8) (d : Reg) (a : Reg) : fieldRd (formatR2 op d a) = d := by
  apply Fin.eq_of_val_eq; rw [fieldRd_val, toNat_formatR2]; omega

theorem fieldRa_formatR2 (op : BitVec 8) (d : Reg) (a : Reg) : fieldRa (formatR2 op d a) = a := by
  apply Fin.eq_of_val_eq; rw [fieldRa_val, toNat_formatR2]; omega

theorem fieldRd_formatI (op : BitVec 8) (d : Reg) (imm : BitVec 16) : fieldRd (formatI op d imm) = d := by
  apply Fin.eq_of_val_eq; rw [fieldRd_val, toNat_formatI]; omega

theorem fieldImm_formatI (op : BitVec 8) (d : Reg) (imm : BitVec 16) : fieldImm (formatI op d imm) = imm := by
  apply BitVec.eq_of_toNat_eq; rw [fieldImm_toNat, toNat_formatI]; omega

theorem fieldImm_formatI0 (op : BitVec 8) (imm : BitVec 16) : fieldImm (formatI0 op imm) = imm := by
  apply BitVec.eq_of_toNat_eq; rw [fieldImm_toNat, toNat_formatI0]; omega

theorem fieldRd_formatRM (op : BitVec 8) (r : Reg) (addr : Addr) : fieldRd (formatRM op r addr) = r := by
  apply Fin.eq_of_val_eq; rw [fieldRd_val, toNat_formatRM]; omega

theorem fieldAddr_formatRM (op : BitVec 8) (r : Reg) (addr : Addr) : fieldAddr (formatRM op r addr) = addr := by
  apply BitVec.eq_of_toNat_eq; rw [fieldAddr_toNat, toNat_formatRM]; omega

theorem fieldRd_formatRX (op : BitVec 8) (r : Reg) (idx : FlatIndex) : fieldRd (formatRX op r idx) = r := by
  apply Fin.eq_of_val_eq; rw [fieldRd_val, toNat_formatRX]; omega

theorem fieldIdx_formatRX (op : BitVec 8) (r : Reg) (idx : FlatIndex) : fieldIdx (formatRX op r idx) = idx := by
  apply Fin.eq_of_val_eq; rw [fieldIdx_val, toNat_formatRX]; omega

theorem fieldIdx_formatX (op : BitVec 8) (k : Fin 16) : fieldIdx (formatX op k) = k := by
  apply Fin.eq_of_val_eq; rw [fieldIdx_val, toNat_formatX]; omega

theorem fieldAddr_formatM (op : BitVec 8) (addr : Addr) (len : Len) : fieldAddr (formatM op addr len) = addr := by
  apply BitVec.eq_of_toNat_eq; rw [fieldAddr_toNat, toNat_formatM]; omega

theorem fieldLen_formatM (op : BitVec 8) (addr : Addr) (len : Len) : fieldLen (formatM op addr len) = len := by
  apply Fin.eq_of_val_eq; rw [fieldLen_val, toNat_formatM]; omega

theorem nop : Statement (.nop) := fun _ =>
  of_row 0 (by decide) (by decide) rfl

theorem gfLi (d : Reg) (imm : BitVec 16) : Statement (.gfLi d imm) := fun _ =>
  of_row 1 (by decide) (mask_formatI 0x10#8 d imm) (by
    change Instr.gfLi (fieldRd (formatI 0x10#8 d imm)) (fieldImm (formatI 0x10#8 d imm)) = _
    rw [fieldRd_formatI, fieldImm_formatI])

theorem gfMov (d : Reg) (a : Reg) : Statement (.gfMov d a) := fun _ =>
  of_row 2 (by decide) (mask_formatR2 0x11#8 d a) (by
    change Instr.gfMov (fieldRd (formatR2 0x11#8 d a)) (fieldRa (formatR2 0x11#8 d a)) = _
    rw [fieldRd_formatR2, fieldRa_formatR2])

theorem gfAdd (d : Reg) (a : Reg) (b : Reg) : Statement (.gfAdd d a b) := fun _ =>
  of_row 3 (by decide) (mask_formatR3 0x12#8 d a b) (by
    change Instr.gfAdd (fieldRd (formatR3 0x12#8 d a b)) (fieldRa (formatR3 0x12#8 d a b)) (fieldRb (formatR3 0x12#8 d a b)) = _
    rw [fieldRd_formatR3, fieldRa_formatR3, fieldRb_formatR3])

theorem gfDeg (d : Reg) (a : Reg) : Statement (.gfDeg d a) := fun _ =>
  of_row 4 (by decide) (mask_formatR2 0x13#8 d a) (by
    change Instr.gfDeg (fieldRd (formatR2 0x13#8 d a)) (fieldRa (formatR2 0x13#8 d a)) = _
    rw [fieldRd_formatR2, fieldRa_formatR2])

theorem gfDiv (d : Reg) (a : Reg) (b : Reg) : Statement (.gfDiv d a b) := fun _ =>
  of_row 5 (by decide) (mask_formatR3 0x14#8 d a b) (by
    change Instr.gfDiv (fieldRd (formatR3 0x14#8 d a b)) (fieldRa (formatR3 0x14#8 d a b)) (fieldRb (formatR3 0x14#8 d a b)) = _
    rw [fieldRd_formatR3, fieldRa_formatR3, fieldRb_formatR3])

theorem gfRem (d : Reg) (a : Reg) (b : Reg) : Statement (.gfRem d a b) := fun _ =>
  of_row 6 (by decide) (mask_formatR3 0x15#8 d a b) (by
    change Instr.gfRem (fieldRd (formatR3 0x15#8 d a b)) (fieldRa (formatR3 0x15#8 d a b)) (fieldRb (formatR3 0x15#8 d a b)) = _
    rw [fieldRd_formatR3, fieldRa_formatR3, fieldRb_formatR3])

theorem gfMul (d : Reg) (a : Reg) (b : Reg) : Statement (.gfMul d a b) := fun _ =>
  of_row 7 (by decide) (mask_formatR3 0x16#8 d a b) (by
    change Instr.gfMul (fieldRd (formatR3 0x16#8 d a b)) (fieldRa (formatR3 0x16#8 d a b)) (fieldRb (formatR3 0x16#8 d a b)) = _
    rw [fieldRd_formatR3, fieldRa_formatR3, fieldRb_formatR3])

theorem gfXgcd (d : Reg) (a : Reg) (b : Reg) : Statement (.gfXgcd d a b) := fun _ =>
  of_row 8 (by decide) (mask_formatR3 0x17#8 d a b) (by
    change Instr.gfXgcd (fieldRd (formatR3 0x17#8 d a b)) (fieldRa (formatR3 0x17#8 d a b)) (fieldRb (formatR3 0x17#8 d a b)) = _
    rw [fieldRd_formatR3, fieldRa_formatR3, fieldRb_formatR3])

theorem gfInv (d : Reg) (a : Reg) : Statement (.gfInv d a) := fun _ =>
  of_row 9 (by decide) (mask_formatR2 0x18#8 d a) (by
    change Instr.gfInv (fieldRd (formatR2 0x18#8 d a)) (fieldRa (formatR2 0x18#8 d a)) = _
    rw [fieldRd_formatR2, fieldRa_formatR2])

theorem gfCmp (d : Reg) (a : Reg) (b : Reg) : Statement (.gfCmp d a b) := fun _ =>
  of_row 10 (by decide) (mask_formatR3 0x19#8 d a b) (by
    change Instr.gfCmp (fieldRd (formatR3 0x19#8 d a b)) (fieldRa (formatR3 0x19#8 d a b)) (fieldRb (formatR3 0x19#8 d a b)) = _
    rw [fieldRd_formatR3, fieldRa_formatR3, fieldRb_formatR3])

theorem gfLdb (r : Reg) (addr : Addr) : Statement (.gfLdb r addr) := fun _ =>
  of_row 11 (by decide) (mask_formatRM 0x1A#8 r addr) (by
    change Instr.gfLdb (fieldRd (formatRM 0x1A#8 r addr)) (fieldAddr (formatRM 0x1A#8 r addr)) = _
    rw [fieldRd_formatRM, fieldAddr_formatRM])

theorem gfStb (r : Reg) (addr : Addr) : Statement (.gfStb r addr) := fun _ =>
  of_row 12 (by decide) (mask_formatRM 0x1B#8 r addr) (by
    change Instr.gfStb (fieldRd (formatRM 0x1B#8 r addr)) (fieldAddr (formatRM 0x1B#8 r addr)) = _
    rw [fieldRd_formatRM, fieldAddr_formatRM])

theorem seedLo (imm : BitVec 16) : Statement (.seedLo imm) := fun _ =>
  of_row 13 (by decide) (mask_formatI0 0x20#8 imm) (by
    change Instr.seedLo (fieldImm (formatI0 0x20#8 imm)) = _
    rw [fieldImm_formatI0])

theorem seedHi (imm : BitVec 16) : Statement (.seedHi imm) := fun _ =>
  of_row 14 (by decide) (mask_formatI0 0x21#8 imm) (by
    change Instr.seedHi (fieldImm (formatI0 0x21#8 imm)) = _
    rw [fieldImm_formatI0])

theorem sbBuild : Statement (.sbBuild) := fun _ =>
  of_row 15 (by decide) (by decide) rfl

theorem sbFwd (d : Reg) (a : Reg) : Statement (.sbFwd d a) := fun _ =>
  of_row 16 (by decide) (mask_formatR2 0x23#8 d a) (by
    change Instr.sbFwd (fieldRd (formatR2 0x23#8 d a)) (fieldRa (formatR2 0x23#8 d a)) = _
    rw [fieldRd_formatR2, fieldRa_formatR2])

theorem sbInv (d : Reg) (a : Reg) : Statement (.sbInv d a) := fun _ =>
  of_row 17 (by decide) (mask_formatR2 0x24#8 d a) (by
    change Instr.sbInv (fieldRd (formatR2 0x24#8 d a)) (fieldRa (formatR2 0x24#8 d a)) = _
    rw [fieldRd_formatR2, fieldRa_formatR2])

theorem sbAff (d : Reg) (a : Reg) : Statement (.sbAff d a) := fun _ =>
  of_row 18 (by decide) (mask_formatR2 0x25#8 d a) (by
    change Instr.sbAff (fieldRd (formatR2 0x25#8 d a)) (fieldRa (formatR2 0x25#8 d a)) = _
    rw [fieldRd_formatR2, fieldRa_formatR2])

theorem sbBrev (d : Reg) (a : Reg) : Statement (.sbBrev d a) := fun _ =>
  of_row 19 (by decide) (mask_formatR2 0x26#8 d a) (by
    change Instr.sbBrev (fieldRd (formatR2 0x26#8 d a)) (fieldRa (formatR2 0x26#8 d a)) = _
    rw [fieldRd_formatR2, fieldRa_formatR2])

theorem stLd (addr : Addr) (len : Len) : Statement (.stLd addr len) := fun _ =>
  of_row 20 (by decide) (mask_formatM 0x30#8 addr len) (by
    change Instr.stLd (fieldAddr (formatM 0x30#8 addr len)) (fieldLen (formatM 0x30#8 addr len)) = _
    rw [fieldAddr_formatM, fieldLen_formatM])

theorem stSt (addr : Addr) (len : Len) : Statement (.stSt addr len) := fun _ =>
  of_row 21 (by decide) (mask_formatM 0x31#8 addr len) (by
    change Instr.stSt (fieldAddr (formatM 0x31#8 addr len)) (fieldLen (formatM 0x31#8 addr len)) = _
    rw [fieldAddr_formatM, fieldLen_formatM])

theorem stGet (r : Reg) (idx : FlatIndex) : Statement (.stGet r idx) := fun _ =>
  of_row 22 (by decide) (mask_formatRX 0x32#8 r idx) (by
    change Instr.stGet (fieldRd (formatRX 0x32#8 r idx)) (fieldIdx (formatRX 0x32#8 r idx)) = _
    rw [fieldRd_formatRX, fieldIdx_formatRX])

theorem stSet (r : Reg) (idx : FlatIndex) : Statement (.stSet r idx) := fun _ =>
  of_row 23 (by decide) (mask_formatRX 0x33#8 r idx) (by
    change Instr.stSet (fieldRd (formatRX 0x33#8 r idx)) (fieldIdx (formatRX 0x33#8 r idx)) = _
    rw [fieldRd_formatRX, fieldIdx_formatRX])

theorem subbytes : Statement (.subbytes) := fun _ =>
  of_row 24 (by decide) (by decide) rfl

theorem isubbytes : Statement (.isubbytes) := fun _ =>
  of_row 25 (by decide) (by decide) rfl

theorem shiftrows : Statement (.shiftrows) := fun _ =>
  of_row 26 (by decide) (by decide) rfl

theorem ishiftrows : Statement (.ishiftrows) := fun _ =>
  of_row 27 (by decide) (by decide) rfl

theorem mixcols : Statement (.mixcols) := fun _ =>
  of_row 28 (by decide) (by decide) rfl

theorem imixcols : Statement (.imixcols) := fun _ =>
  of_row 29 (by decide) (by decide) rfl

theorem ark (k : Fin 16) : Statement (.ark k) := fun _ =>
  of_row 30 (by decide) (mask_formatX 0x3A#8 k) (by
    change Instr.ark (fieldIdx (formatX 0x3A#8 k)) = _
    rw [fieldIdx_formatX])

theorem arkm (addr : Addr) (len : Len) : Statement (.arkm addr len) := fun _ =>
  of_row 31 (by decide) (mask_formatM 0x3B#8 addr len) (by
    change Instr.arkm (fieldAddr (formatM 0x3B#8 addr len)) (fieldLen (formatM 0x3B#8 addr len)) = _
    rw [fieldAddr_formatM, fieldLen_formatM])

theorem cfg (imm : BitVec 16) : Statement (.cfg imm) := fun h =>
  of_row 32 (by decide) (mask_formatI0_cfg 0x40#8 imm (eq_of_beq h)) (by
    change Instr.cfg (fieldImm (formatI0 0x40#8 imm)) = _
    rw [fieldImm_formatI0])

theorem kexp (addr : Addr) (len : Len) : Statement (.kexp addr len) := fun _ =>
  of_row 33 (by decide) (mask_formatM 0x41#8 addr len) (by
    change Instr.kexp (fieldAddr (formatM 0x41#8 addr len)) (fieldLen (formatM 0x41#8 addr len)) = _
    rw [fieldAddr_formatM, fieldLen_formatM])

theorem rkSt (addr : Addr) (len : Fin 64) : Statement (.rkSt addr len) := fun _ =>
  of_row 34 (by decide) (mask_formatM 0x42#8 addr len) (by
    change Instr.rkSt (fieldAddr (formatM 0x42#8 addr len)) (fieldLen (formatM 0x42#8 addr len)) = _
    rw [fieldAddr_formatM, fieldLen_formatM])

theorem encb : Statement (.encb) := fun _ =>
  of_row 35 (by decide) (by decide) rfl

theorem decb : Statement (.decb) := fun _ =>
  of_row 36 (by decide) (by decide) rfl

theorem chInit : Statement (.chInit) := fun _ =>
  of_row 37 (by decide) (by decide) rfl

theorem chEnc : Statement (.chEnc) := fun _ =>
  of_row 38 (by decide) (by decide) rfl

theorem chDec : Statement (.chDec) := fun _ =>
  of_row 39 (by decide) (by decide) rfl

theorem chSt (addr : Addr) : Statement (.chSt addr) := fun _ =>
  of_row 40 (by decide) (mask_formatM_zero 0x5B#8 addr) (by
    change Instr.chSt (fieldAddr (formatM 0x5B#8 addr 0)) = _
    rw [fieldAddr_formatM])

end Sys2Proof.Laws.TableRow
end

