-- ==== Sys2Proof/Safety.lean ====
section
/-! DEFINITION. What holds of every state of the unit (10_state.md R34) and when it takes commands (60_exceptions.md
R232). -/

namespace Sys2Proof.Machine

/-- The unit is not halted (60_exceptions.md R232). -/
abbrev State.Running (s : State) : Prop := s.status.err = false

/-- FWD and INV undo each other on every byte, so both are permutations of 0..255 (10_state.md R29). -/
def BoxesInverse (fwd inv : Table) : Prop :=
  (∀ x : Byte, Table.lookup inv (Table.lookup fwd x) = x) ∧ (∀ x : Byte, Table.lookup fwd (Table.lookup inv x) = x)

/-- The invariants of 10_state.md R34, with the canonical form of DMEM. R34 (b) and (f) hold by the types: `CTRL` has no
value for the illegal codes and every byte and register has its width. -/
structure State.Inv (s : State) : Prop where
  /-- R34 (a). -/
  keyNeedsBox : s.status.kv = true → s.status.sbv = true
  /-- R34 (c). -/
  boxesInverse : s.status.sbv = true → BoxesInverse s.fwd s.inv
  /-- R34 (d): the round keys are the expansion, under CTRL.KS and FWD of now, of some key of the right length. -/
  keyExpanded : s.status.kv = true → ∃ key : List Byte, key.length * 8 = s.ctrl.ks.keyBits ∧
    ∀ k ≤ s.ctrl.ks.nr, roundKey s.rk k = packRoundKey (scheduleWords ksTArg key s.ctrl.ks s.fwd) k
  /-- R34 (e). -/
  causeZero : s.status.cause = 0 ↔ s.status.err = false
  /-- 60_exceptions.md R230: the codes 11 to 15 are never written. -/
  causeKnown : s.status.cause.toNat ≤ 10
  /-- DMEM is in canonical form, every address among 0..255 (20_memory.md R50). -/
  dmemCanonical : Memory.wf s.dmem = true

end Sys2Proof.Machine
end

