-- ==== Sys2Proof/Certificates/Slice0/Obligations.lean ====
section
/-! DEFINITION. The statements about the model that the provers are asked to settle, and the few words they are written
in. -/

namespace Sys2Proof.Stated

open Sys2Proof Sys2Proof.Machine

/-- The command word with the number `n` decodes to `i` (30_encoding.md R76). -/
abbrev Decodes (n : Nat) (i : Instr) : Prop := decodeWord (BitVec.ofNat 32 n) = .ok i

/-- The state after a fault of code `c` (60_exceptions.md R231): STATUS.ERR and STATUS.CAUSE are all that changed. -/
abbrev faulted (s : State) (c : BitVec 4) : State := { s with status := { s.status with err := true, cause := c } }

/-- `DMEM[a]`. -/
abbrev byteAt (s : State) (a : Nat) : Byte := Memory.read s.dmem a

/-- The byte of a matrix at flat index `i`, row `i mod 4` and column `i div 4` (10_state.md R27). -/
def flat (m : Matrix) (i : Fin 16) : Byte := (m[i.val % 4]'(by omega))[i.val / 4]'(by omega)

/-- From `s` to `t` the bytes `v 0`, `v 1`, .. `v (n-1)` were stored at `a`, `a+1`, .., every other byte of DMEM reads as
before, and nothing but DMEM changed. -/
def Stores (s t : State) (a n : Nat) (v : Nat → Byte) : Prop :=
  { t with dmem := s.dmem } = s ∧ (∀ j < n, byteAt t (a + j) = v j) ∧
    ∀ x, x < a ∨ a + n ≤ x → byteAt t x = byteAt s x

/-- The commands of the list, one after the other. -/
def execAll : List Instr → State → Outcome
  | [], s => .next s
  | i :: is, s =>
    match exec i s with
    | .next t => execAll is t
    | .fault r => .fault r
    | .refused r => .refused r

/-- `ENCB` turns the block `b` into the block `y` with the box, the round keys and the key size of `s`. -/
def EncryptsTo (s : State) (b y : Block) : Prop :=
  exec .encb { s with matrix := toState b.toList } = .next { s with matrix := toState y.toList }

/-- `DECB` turns the block `b` into the block `y` with the box, the round keys and the key size of `s`. -/
def DecryptsTo (s : State) (b y : Block) : Prop :=
  exec .decb { s with matrix := toState b.toList } = .next { s with matrix := toState y.toList }

/-- The columns of 60_exceptions.md R235: the fault that a decoded command takes in a state that is not halted, by its
code (R230), or none. -/
def faultOf (i : Instr) (s : State) : Option (BitVec 4) :=
  match i with
  | .gfDiv _ _ b | .gfRem _ _ b => if s.p[b] = 0 then some 1 else none
  | .gfStb r _ | .stSet r _ => if s.p[r].toNat > 255 then some 10 else none
  | .sbFwd _ a | .sbInv _ a => if s.status.sbv = false then some 7 else if s.p[a].toNat > 255 then some 10 else none
  | .sbAff _ a | .sbBrev _ a => if s.p[a].toNat > 255 then some 10 else none
  | .stLd addr len | .arkm addr len | .stSt addr len =>
    if len.val > 16 then some 2 else if addr.toNat + len.val > 256 then some 9 else none
  | .subbytes | .isubbytes => if s.status.sbv = false then some 7 else none
  | .ark k => if s.status.kv = false then some 8 else if k.val > s.ctrl.ks.nr then some 10 else none
  | .cfg imm => if imm.toNat % 4 = 3 then some 4 else if imm.toNat / 4 % 8 > 3 then some 5 else none
  | .kexp addr len =>
    if s.status.sbv = false then some 7
    else if len.val * 8 ≠ s.ctrl.ks.keyBits then some 3
    else if addr.toNat + len.val > 256 then some 9
    else none
  | .rkSt addr k =>
    if s.status.kv = false then some 8
    else if k.val > s.ctrl.ks.nr then some 10
    else if addr.toNat + 16 > 256 then some 9
    else none
  | .encb | .decb | .chEnc | .chDec => if s.status.kv = false then some 8 else none
  | .chSt addr => if addr.toNat > 240 then some 9 else none
  | .nop | .gfLi _ _ | .gfMov _ _ | .gfAdd _ _ _ | .gfDeg _ _ | .gfMul _ _ _ | .gfXgcd _ _ _ | .gfInv _ _
  | .gfCmp _ _ _ | .gfLdb _ _ | .seedLo _ | .seedHi _ | .sbBuild | .stGet _ _ | .shiftrows | .ishiftrows | .mixcols
  | .imixcols | .chInit => none

/-- The bytes of DMEM a command may write, known from the command word alone (20_memory.md R56, R66). -/
def MayWrite (i : Instr) (x : Nat) : Prop :=
  match i with
  | .gfStb _ addr => x = addr.toNat
  | .stSt addr len => addr.toNat ≤ x ∧ x < addr.toNat + len.val
  | .rkSt addr _ | .chSt addr => addr.toNat ≤ x ∧ x < addr.toNat + 16
  | _ => False

/-- Two states that differ at most in what no command can read: the tables while SBV = 0, and the round keys while
KV = 0 or above Nr (10_state.md R29, R30). -/
structure SameReadable (s t : State) : Prop where
  rest : { t with fwd := s.fwd, inv := s.inv, rk := s.rk } = s
  box : s.status.sbv = true → t.fwd = s.fwd ∧ t.inv = s.inv
  keys : s.status.kv = true → ∀ k ≤ s.ctrl.ks.nr, roundKey t.rk k = roundKey s.rk k

end Sys2Proof.Stated

open Sys2Proof Sys2Proof.Machine Sys2Proof.Stated

/-! ### Encoding (30_encoding.md) -/

/-- R71, R73, R76: the decoder gives every well-formed command back from its word, with every operand at every value. -/
def Obligations.DecodeOfEncodeGivesTheCommand : Prop :=
  ∀ i : Instr, i.WellFormed → decodeWord (encode i) = .ok i

/-- R75, R76: a word that decodes is the word of the command it decodes to, and that command is well formed. -/
def Obligations.EncodeOfDecodeGivesTheWord : Prop :=
  ∀ (w : CommandWord) (i : Instr), decodeWord w = .ok i → i.WellFormed ∧ encode i = w

/-- R74: no word matches two rows of the opcode map. -/
def Obligations.OpcodeRowsAreDisjoint : Prop :=
  ∀ (w : CommandWord) (r q : Row), r ∈ commandRows → q ∈ commandRows →
    w &&& r.mask = r.bits → w &&& q.mask = q.bits → r.mnemonic = q.mnemonic

/-- R75: a word that matches no row takes `ILLEGAL_CMD` (code 6) and changes nothing else; every word is a command or
illegal; and the words of R75's list are illegal: the opcodes with no row, a set bit 3 of a register field, `CFG` with
any of imm16[15:5], `CH.ST` with a nonzero `len`. -/
def Obligations.WordsOutsideTheOpcodeMapAreIllegal : Prop :=
  (∀ (w : CommandWord) (s : State), s.Running → (∀ r ∈ commandRows, w &&& r.mask ≠ r.bits) →
    issueWord w s = .next (faulted s 6)) ∧
  (∀ w : CommandWord, (∃ i, decodeWord w = .ok i) ∨ ∀ r ∈ commandRows, w &&& r.mask ≠ r.bits) ∧
  (∀ w : CommandWord, ∀ r ∈ commandRows, w &&& r.mask = r.bits →
    (w.extractLsb' 24 8).toNat ∈
      [0x00, 0x10, 0x11, 0x12, 0x13, 0x14, 0x15, 0x16, 0x17, 0x18, 0x19, 0x1A, 0x1B, 0x20, 0x21, 0x22, 0x23, 0x24, 0x25,
       0x26, 0x30, 0x31, 0x32, 0x33, 0x34, 0x35, 0x36, 0x37, 0x38, 0x39, 0x3A, 0x3B, 0x40, 0x41, 0x42, 0x50, 0x51, 0x58,
       0x59, 0x5A, 0x5B]) ∧
  (∀ w : CommandWord, ∀ r ∈ commandRows, w &&& r.mask = r.bits →
    (r.mnemonic ∈ ["GF.LI", "GF.MOV", "GF.ADD", "GF.DEG", "GF.DIV", "GF.REM", "GF.MUL", "GF.XGCD", "GF.INV", "GF.CMP",
        "GF.LDB", "GF.STB", "SB.FWD", "SB.INV", "SB.AFF", "SB.BREV", "ST.GET", "ST.SET"] → w.getLsbD 23 = false) ∧
    (r.mnemonic ∈ ["GF.MOV", "GF.ADD", "GF.DEG", "GF.DIV", "GF.REM", "GF.MUL", "GF.XGCD", "GF.INV", "GF.CMP", "SB.FWD",
        "SB.INV", "SB.AFF", "SB.BREV"] → w.getLsbD 19 = false) ∧
    (r.mnemonic ∈ ["GF.ADD", "GF.DIV", "GF.REM", "GF.MUL", "GF.XGCD", "GF.CMP"] → w.getLsbD 15 = false) ∧
    (r.mnemonic = "CFG" → w.extractLsb' 5 11 = 0) ∧
    (r.mnemonic = "CH.ST" → w.extractLsb' 8 6 = 0))

/-- 30_encoding.md R71, R74, R78 and 95_test_vectors.md part B: words written out from the spec, one for each format. -/
def Obligations.WordsWrittenOutFromTheSpecDecode : Prop :=
  Decodes 0x00000000 .nop ∧ Decodes 0x1030011B (.gfLi 3 0x011B) ∧ Decodes 0x11100000 (.gfMov 1 0) ∧
  Decodes 0x16201000 (.gfMul 2 0 1) ∧ Decodes 0x1A5000FE (.gfLdb 5 0xFE) ∧ Decodes 0x20000064 (.seedLo 0x64) ∧
  Decodes 0x24210000 (.sbInv 2 1) ∧ Decodes 0x30001020 (.stLd 0x20 16) ∧ Decodes 0x3330000D (.stSet 3 13) ∧
  Decodes 0x3A00000A (.ark 10) ∧ Decodes 0x4000000E (.cfg 0x0E) ∧ Decodes 0x42000150 (.rkSt 0x50 1) ∧
  Decodes 0x51000000 .decb ∧ Decodes 0x5B000060 (.chSt 0x60)

/-! ### The step, the host and reset -/

/-- 70_reset_and_hazards.md R264, 00_scope.md R8, R76: the host's next action decides the step, and a command word that
decodes runs its command on the state with that action taken from the pending ones. With no action pending the state
holds (R243). That the actions stand in the state as a list is the model's own choice, log entry 5. -/
def Obligations.StepRunsTheDecodedCommand : Prop :=
  (∀ (s : State) (w : CommandWord) (rest : List HostAction) (i : Instr),
    s.host = .command w :: rest → decodeWord w = .ok i → step s = exec i { s with host := rest }) ∧
  (∀ (s : State) (nbits w : Nat) (i : Instr),
    decodeTableWord nbits w = some i → step (s.withFetchWord nbits w) = exec i s) ∧
  (∀ s : State, s.host = [] → step s = .next s)

/-- 10_state.md R36: what reset leaves, where the spec gives a value, and `DMEM_INIT` in DMEM. -/
def Obligations.ResetValues : Prop :=
  (∀ r : Fin 8, State.reset.p[r] = 0) ∧ (∀ i : Fin 16, flat State.reset.matrix i = 0) ∧
  (∀ i : Fin 16, State.reset.chain[i] = 0) ∧ State.reset.ctrl = { ks := .k128, mode := .ecb } ∧
  State.reset.status = { sbv := false, kv := false, err := false, cause := 0 } ∧ State.reset.seed = 0 ∧
  ∀ a : Nat, byteAt State.reset a = Config.dmemInit a

/-- 70_reset_and_hazards.md R260, 60_exceptions.md R237: the reset input, in every state, halted or not, gives the values
of 10_state.md R36 and leaves DMEM as it was; the fault line goes to 0. The host's actions as a list: the model's choice,
log entry 5. -/
def Obligations.ResetInputLeavesTheHaltedState : Prop :=
  ∀ (s : State) (rest : List HostAction), s.host = .reset :: rest →
    ∃ t, step s = .next t ∧ (∀ r : Fin 8, t.p[r] = 0) ∧ (∀ i : Fin 16, flat t.matrix i = 0) ∧
      (∀ i : Fin 16, t.chain[i] = 0) ∧ t.ctrl = { ks := .k128, mode := .ecb } ∧
      t.status = { sbv := false, kv := false, err := false, cause := 0 } ∧ t.seed = 0 ∧ t.faultLine = false ∧
      (∀ a : Nat, byteAt t a = byteAt s a) ∧ t.host = rest

/-- 10_state.md R35, R23, R24: the register port, index by index; a read changes nothing. The host's actions as a list:
the model's choice, log entry 5. -/
def Obligations.RegisterPortShowsTheRegisters : Prop :=
  (∀ (s : State) (r : Fin 8), (s.readPort (BitVec.ofNat 4 r.val)).toNat = s.p[r].toNat) ∧
  (∀ s : State, (s.readPort 8).toNat =
    (match s.ctrl.ks with | .k128 => 0 | .k192 => 1 | .k256 => 2) +
    4 * (match s.ctrl.mode with | .ecb => 0 | .cbc => 1 | .ofb => 2 | .cfb => 3)) ∧
  (∀ s : State, (s.readPort 9).toNat =
    s.status.sbv.toNat + 2 * s.status.kv.toNat + 4 * s.status.err.toNat + 16 * s.status.cause.toNat) ∧
  (∀ s : State, s.readPort 10 = s.seed) ∧
  (∀ (s : State) (n : Fin 16), 11 ≤ n.val → s.readPort (BitVec.ofNat 4 n.val) = 0) ∧
  (∀ (s : State) (k : BitVec 4) (rest : List HostAction),
    s.host = .readPort k :: rest → step s = .next { s with host := rest })

/-- 20_memory.md R57, R58, R61, 60_exceptions.md R232: the host reads and writes single bytes of DMEM, halted or not; a
write changes that byte only, a read changes nothing. The host's actions as a list: the model's choice, log entry 5. -/
def Obligations.HostReadsAndWritesDmem : Prop :=
  (∀ (s : State) (a : Addr) (b : Byte) (rest : List HostAction), s.host = .writeDmem a b :: rest →
    ∃ t, step s = .next t ∧ t.hostReadDmem a = b ∧ (∀ x : Addr, x ≠ a → t.hostReadDmem x = s.hostReadDmem x) ∧
      { t with dmem := s.dmem } = { s with host := rest }) ∧
  (∀ (s : State) (a : Addr) (rest : List HostAction), s.host = .readDmem a :: rest →
    step s = .next { s with host := rest })

/-! ### Faults and the whole machine (60_exceptions.md, 10_state.md) -/

/-- 60_exceptions.md R232: in the halted state every command word, legal or not, has no effect whatever, not even on
CAUSE. The host's actions as a list: the model's choice, log entry 5. -/
def Obligations.HaltedUnitIgnoresEveryCommandWord : Prop :=
  ∀ (s : State) (w : CommandWord) (rest : List HostAction), s.status.err = true → s.host = .command w :: rest →
    step s = .next { s with host := rest }

/-- 60_exceptions.md R230, R231, R233 to R235: the fault each decoded command takes, the first in the order of R234, with
nothing but STATUS.ERR and STATUS.CAUSE written; where R235 gives no fault the command completes and takes none. Every
one of the 41 commands is in the table `faultOf`. A term `cfg imm` with a bit of imm[15:5] set is no command, and no word
decodes to it: that it runs on imm[4:0] here is the model's choice, log entry 14. -/
def Obligations.EveryCommandCompletesOrTakesItsFault : Prop :=
  ∀ (i : Instr) (s : State), s.Running →
    match faultOf i s with
    | some c => exec i s = .next (faulted s c)
    | none => ∃ t, exec i s = .next t ∧ t.status.err = false ∧ t.status.cause = s.status.cause

/-- 10_state.md R20, column "written by": which commands change each register. That no command changes the pending host
actions is about the model's own field `host`, the model's choice, log entry 5. -/
def Obligations.OnlyTheNamedCommandsWriteEachRegister : Prop :=
  ∀ (i : Instr) (s t : State), exec i s = .next t →
    (t.fwd = s.fwd ∧ t.inv = s.inv ∨ i = .sbBuild) ∧
    (t.rk = s.rk ∨ ∃ a l, i = .kexp a l) ∧
    (t.ctrl = s.ctrl ∨ ∃ imm, i = .cfg imm) ∧
    (t.seed = s.seed ∨ (∃ imm, i = .seedLo imm) ∨ ∃ imm, i = .seedHi imm) ∧
    (t.chain = s.chain ∨ i = .chInit ∨ i = .chEnc ∨ i = .chDec) ∧
    (t.status.sbv = s.status.sbv ∨ i = .sbBuild) ∧
    (t.status.kv = s.status.kv ∨ i = .sbBuild ∨ (∃ imm, i = .cfg imm) ∨ ∃ a l, i = .kexp a l) ∧
    (t.matrix = s.matrix ∨ (∃ a l, i = .stLd a l) ∨ (∃ r k, i = .stSet r k) ∨ i = .subbytes ∨ i = .isubbytes ∨
      i = .shiftrows ∨ i = .ishiftrows ∨ i = .mixcols ∨ i = .imixcols ∨ (∃ k, i = .ark k) ∨ (∃ a l, i = .arkm a l) ∨
      i = .encb ∨ i = .decb ∨ i = .chEnc ∨ i = .chDec) ∧
    (t.p = s.p ∨ (∃ d imm, i = .gfLi d imm) ∨ (∃ d a, i = .gfMov d a ∨ i = .gfDeg d a ∨ i = .gfInv d a ∨
      i = .sbFwd d a ∨ i = .sbInv d a ∨ i = .sbAff d a ∨ i = .sbBrev d a) ∨ (∃ d a b, i = .gfAdd d a b ∨
      i = .gfDiv d a b ∨ i = .gfRem d a b ∨ i = .gfMul d a b ∨ i = .gfXgcd d a b ∨ i = .gfCmp d a b) ∨
      (∃ d a, i = .gfLdb d a) ∨ ∃ d k, i = .stGet d k) ∧
    t.host = s.host

/-- 20_memory.md R56, R66: a command writes no byte of DMEM but those its own word names; and the commands that name none
leave all of DMEM. -/
def Obligations.CommandsWriteOnlyTheBytesTheyName : Prop :=
  ∀ (i : Instr) (s t : State) (x : Nat), exec i s = .next t → ¬ MayWrite i x → byteAt t x = byteAt s x

/-- 10_state.md R34 at `State.reset`; FWD, INV and RK there are the model's choice (log entry 3), which the flags make
immaterial. -/
def Obligations.ResetHasTheInvariant : Prop := State.reset.Inv

/-- 10_state.md R34: the invariants are kept by every step, from every state that has them; part (d) with the unit's
`KS_T_ARG` (log entry 4). -/
def Obligations.EveryStepKeepsTheInvariant : Prop :=
  ∀ s t : State, s.Inv → step s = .next t → t.Inv

/-- 10_state.md R29, R30, 70_reset_and_hazards.md R261, R266, 93_implementation_defined.md I10: what the tables and the
round keys hold while their flags are 0, or above Nr, is never observable: two states that differ only there stay so at
every step, and show the host the same. -/
def Obligations.UnreadableContentsAreNeverObserved : Prop :=
  ∀ s t s' t' : State, SameReadable s t → (s.status.kv = true → s.status.sbv = true) →
    step s = .next s' → step t = .next t' →
    SameReadable s' t' ∧ (∀ k, t'.readPort k = s'.readPort k) ∧ (∀ a, t'.hostReadDmem a = s'.hostReadDmem a) ∧
      t'.faultLine = s'.faultLine

/-! ### `NOP` -/

/-- 60_exceptions.md R246. -/
def Obligations.NopChangesNothing : Prop :=
  Decodes 0x00000000 .nop ∧ (∀ s : State, exec .nop s = .next s) ∧
  ∀ (w : CommandWord) (s : State), s.Running → w.extractLsb' 24 8 = 0 → w ≠ 0 → issueWord w s = .next (faulted s 6)

/-! ### The field unit (40_gf256.md) -/

/-- R110 to R112, R100. -/
def Obligations.LoadImmediateMoveAndAdd : Prop :=
  (∀ (d : Reg) (imm : BitVec 16), Decodes (0x10000000 + d.val * 2 ^ 20 + imm.toNat) (.gfLi d imm)) ∧
  (∀ d a : Reg, Decodes (0x11000000 + d.val * 2 ^ 20 + a.val * 2 ^ 16) (.gfMov d a)) ∧
  (∀ d a b : Reg, Decodes (0x12000000 + d.val * 2 ^ 20 + a.val * 2 ^ 16 + b.val * 2 ^ 12) (.gfAdd d a b)) ∧
  (∀ a b : Nat, polyAdd a b = a ^^^ b) ∧
  ∀ s : State, s.Running →
    (∀ (d : Reg) (imm : BitVec 16), exec (.gfLi d imm) s = .next { s with p := s.p.set d imm }) ∧
    (∀ d a : Reg, exec (.gfMov d a) s = .next { s with p := s.p.set d s.p[a] }) ∧
    (∀ d a b : Reg, exec (.gfAdd d a b) s = .next { s with p := s.p.set d (s.p[a] ^^^ s.p[b]) })

/-- R101, R113. -/
def Obligations.DegreeIsTheHighestSetBit : Prop :=
  (∀ d a : Reg, Decodes (0x13000000 + d.val * 2 ^ 20 + a.val * 2 ^ 16) (.gfDeg d a)) ∧
  (polyDeg 0 = 0 ∧ ∀ a : Nat, 0 < a → 2 ^ polyDeg a ≤ a ∧ a < 2 ^ (polyDeg a + 1)) ∧
  ∀ s : State, s.Running → ∀ d a : Reg, polyDeg s.p[a].toNat ≤ 15 ∧
    exec (.gfDeg d a) s = .next { s with p := s.p.set d (BitVec.ofNat 16 (polyDeg s.p[a].toNat)) }

/-- R102, R104: `divmod` is polynomial long division: its result is the one pair of a quotient and a remainder that is 0
or of lower degree than the divisor. -/
def Obligations.LongDivisionIsTheUniquePair : Prop :=
  ∀ a b : Nat, b ≠ 0 →
    (a = clmul (divmod a b).1 b ^^^ (divmod a b).2 ∧ ((divmod a b).2 = 0 ∨ polyDeg (divmod a b).2 < polyDeg b)) ∧
    ∀ q r : Nat, a = clmul q b ^^^ r → (r = 0 ∨ polyDeg r < polyDeg b) → divmod a b = (q, r)

/-- R103, R114, R115, in terms of R102's pair: `GF.DIV` writes the quotient, reduced modulo m(x) when it exceeds 255,
and `GF.REM` the remainder; both take `DIV_ZERO` (code 1) on a zero divisor. -/
def Obligations.QuotientAndRemainderCommands : Prop :=
  (∀ d a b : Reg, Decodes (0x14000000 + d.val * 2 ^ 20 + a.val * 2 ^ 16 + b.val * 2 ^ 12) (.gfDiv d a b)) ∧
  (∀ d a b : Reg, Decodes (0x15000000 + d.val * 2 ^ 20 + a.val * 2 ^ 16 + b.val * 2 ^ 12) (.gfRem d a b)) ∧
  ∀ s : State, s.Running → ∀ d a b : Reg,
    (s.p[b] = 0 → exec (.gfDiv d a b) s = .next (faulted s 1) ∧ exec (.gfRem d a b) s = .next (faulted s 1)) ∧
    (s.p[b] ≠ 0 → ∃ q r v : Nat, s.p[a].toNat = clmul q s.p[b].toNat ^^^ r ∧
      (r = 0 ∨ polyDeg r < polyDeg s.p[b].toNat) ∧ v ≤ 255 ∧ (q ≤ 255 → v = q) ∧
      (255 < q → ∃ k, q = clmul k 0x11B ^^^ v) ∧
      exec (.gfDiv d a b) s = .next { s with p := s.p.set d (BitVec.ofNat 16 v) } ∧
      exec (.gfRem d a b) s = .next { s with p := s.p.set d (BitVec.ofNat 16 r) } ∧ r < 2 ^ 16)

/-- R105: the carry-less product is shift and add, and the field product its reduction modulo m(x), at most 255,
whatever the width of the operands. -/
def Obligations.ProductIsShiftAddThenReduce : Prop :=
  (∀ a : Nat, clmul a 0 = 0) ∧ (∀ a b : Nat, clmul a (2 * b) = clmul (2 * a) b) ∧
  (∀ a b : Nat, clmul a (2 * b + 1) = a ^^^ clmul (2 * a) b) ∧
  (∀ a b : Nat, a < 2 ^ 16 → b < 2 ^ 16 → clmul a b < 2 ^ 31) ∧
  (∀ a b : Nat, polyMul a b ≤ 255 ∧ (∃ k, clmul a b = clmul k 0x11B ^^^ polyMul a b) ∧
    polyMul a b = polyMul (polyRem a 0x11B) (polyRem b 0x11B))

/-- R116. -/
def Obligations.FieldMultiplication : Prop :=
  (∀ d a b : Reg, Decodes (0x16000000 + d.val * 2 ^ 20 + a.val * 2 ^ 16 + b.val * 2 ^ 12) (.gfMul d a b)) ∧
  ∀ s : State, s.Running → ∀ d a b : Reg, ∃ k v : Nat, clmul s.p[a].toNat s.p[b].toNat = clmul k 0x11B ^^^ v ∧
    v ≤ 255 ∧ exec (.gfMul d a b) s = .next { s with p := s.p.set d (BitVec.ofNat 16 v) }

/-- R100, R102, R104, R105 against Mathlib's polynomials over the field with two elements: for the reading of a natural
number as the polynomial whose coefficients are its bits (00_scope.md R10), `add` is the sum, `clmul` the product,
`divmod` the quotient and the remainder, and `mul` the product modulo x^8 + x^4 + x^3 + x + 1. -/
def Obligations.FieldUnitIsPolynomialArithmeticOverGF2 : Prop :=
  ∀ φ : Nat → Polynomial (ZMod 2), (∀ n i : Nat, (φ n).coeff i = if n.testBit i then 1 else 0) →
    (∀ a b, φ (polyAdd a b) = φ a + φ b) ∧ (∀ a b, φ (clmul a b) = φ a * φ b) ∧
    (∀ a b, b ≠ 0 → φ (divmod a b).1 = φ a / φ b ∧ φ (divmod a b).2 = φ a % φ b) ∧
    (∀ a b, φ (polyMul a b) = φ a * φ b % (Polynomial.X ^ 8 + Polynomial.X ^ 4 + Polynomial.X ^ 3 + Polynomial.X + 1))

/-- R106 (a) to (c), (e): the first result divides both operands, the coefficients are at most 255 and satisfy the
Bézout identity modulo m(x), every common divisor divides the first result, and the corner results. -/
def Obligations.ExtendedGcdIsAGcdWithBezoutCoefficients : Prop :=
  (∀ a b : Nat, ∃ g ca cb : Nat, xgcd a b = (g, ca, cb) ∧ ca ≤ 255 ∧ cb ≤ 255 ∧
    polyMul a ca ^^^ polyMul b cb = polyRem g 0x11B ∧ (∃ k, a = clmul k g) ∧ (∃ k, b = clmul k g) ∧
    ∀ c : Nat, (∃ k, a = clmul k c) → (∃ k, b = clmul k c) → ∃ k, g = clmul k c) ∧
  (∀ b : Nat, xgcd 0 b = (b, 0, 1)) ∧ (∀ a : Nat, 0 < a → xgcd a 0 = (a, 1, 0) ∧ xgcd a a = (a, 1, 0))

/-- R117: the three destinations, wrapping around the register file, from sources read before any write; every other
register and all else unchanged. -/
def Obligations.ExtendedGcdCommand : Prop :=
  (∀ d a b : Reg, Decodes (0x17000000 + d.val * 2 ^ 20 + a.val * 2 ^ 16 + b.val * 2 ^ 12) (.gfXgcd d a b)) ∧
  ∀ s : State, s.Running → ∀ d a b : Reg, ∃ t, exec (.gfXgcd d a b) s = .next t ∧ { t with p := s.p } = s ∧
    (t.p[d].toNat, t.p[d + 1].toNat, t.p[d + 2].toNat) = xgcd s.p[a].toNat s.p[b].toNat ∧
    ∀ r : Reg, r ≠ d → r ≠ d + 1 → r ≠ d + 2 → t.p[r] = s.p[r]

/-- R118: the inverse modulo m(x) of any 16-bit operand, 0 for a multiple of m(x), no fault; an operand above 255 gives
the inverse of its reduction. -/
def Obligations.MultiplicativeInverse : Prop :=
  (∀ d a : Reg, Decodes (0x18000000 + d.val * 2 ^ 20 + a.val * 2 ^ 16) (.gfInv d a)) ∧
  ∀ s : State, s.Running → ∀ d a : Reg, ∃ v : Nat, v ≤ 255 ∧
    (polyRem s.p[a].toNat 0x11B = 0 → v = 0) ∧ (polyRem s.p[a].toNat 0x11B ≠ 0 → polyMul s.p[a].toNat v = 1) ∧
    v = polyInv (polyRem s.p[a].toNat 0x11B) ∧
    exec (.gfInv d a) s = .next { s with p := s.p.set d (BitVec.ofNat 16 v) }

/-- R119. -/
def Obligations.CompareCommand : Prop :=
  (∀ d a b : Reg, Decodes (0x19000000 + d.val * 2 ^ 20 + a.val * 2 ^ 16 + b.val * 2 ^ 12) (.gfCmp d a b)) ∧
  ∀ s : State, s.Running → ∀ d a b : Reg,
    (s.p[a].toNat = s.p[b].toNat → exec (.gfCmp d a b) s = .next { s with p := s.p.set d 0 }) ∧
    (s.p[a].toNat > s.p[b].toNat → exec (.gfCmp d a b) s = .next { s with p := s.p.set d 1 }) ∧
    (s.p[a].toNat < s.p[b].toNat → exec (.gfCmp d a b) s = .next { s with p := s.p.set d 2 })

/-- R120, R121: one byte between DMEM and a register; a load extends by zeros, a store of more than a byte takes
`OPERAND_RANGE` (code 10). -/
def Obligations.LoadAndStoreByte : Prop :=
  (∀ (d : Reg) (a : Addr), Decodes (0x1A000000 + d.val * 2 ^ 20 + a.toNat) (.gfLdb d a)) ∧
  (∀ (r : Reg) (a : Addr), Decodes (0x1B000000 + r.val * 2 ^ 20 + a.toNat) (.gfStb r a)) ∧
  ∀ s : State, s.Running →
    (∀ (d : Reg) (a : Addr), exec (.gfLdb d a) s =
      .next { s with p := s.p.set d (BitVec.ofNat 16 (byteAt s a.toNat).toNat) }) ∧
    (∀ (r : Reg) (a : Addr), 255 < s.p[r].toNat → exec (.gfStb r a) s = .next (faulted s 10)) ∧
    (∀ (r : Reg) (a : Addr), s.p[r].toNat ≤ 255 →
      ∃ t, exec (.gfStb r a) s = .next t ∧ Stores s t a.toNat 1 (fun _ => BitVec.ofNat 8 s.p[r].toNat))

/-- R108: the laws of the field unit. -/
def Obligations.FieldLaws : Prop :=
  (∀ a b : Nat, polyMul a b = polyMul b a) ∧ (∀ a : Nat, polyAdd a a = 0) ∧
  (∀ a : Nat, 0 < a → a ≤ 255 → (xgcd a 0x11B).1 = 1 ∧ polyMul a (polyInv a) = 1) ∧
  (∀ a b c : Nat, polyAdd (polyAdd a b) c = polyAdd a (polyAdd b c)) ∧ (∀ a b : Nat, polyAdd a b = polyAdd b a) ∧
  (∀ a : Nat, polyAdd a 0 = a) ∧ (∀ a b c : Nat, polyMul (polyMul a b) c = polyMul a (polyMul b c)) ∧
  (∀ a b c : Nat, polyMul a (polyAdd b c) = polyAdd (polyMul a b) (polyMul a c)) ∧
  (∀ a : Nat, polyMul a 1 = polyRem a 0x11B) ∧ (∀ a : Nat, polyMul a 0 = 0) ∧
  (∀ a : Nat, a ≤ 255 → polyMul a 2 = (a <<< 1) ^^^ (if a.testBit 7 then 0x11B else 0))

/-- R109: every result of the field unit fits its register. -/
def Obligations.FieldResultsFitTheRegisters : Prop :=
  ∀ a b : Nat, a < 2 ^ 16 → b < 2 ^ 16 →
    polyAdd a b < 2 ^ 16 ∧ polyDeg a ≤ 15 ∧ polyMul a b ≤ 255 ∧ polyInv a ≤ 255 ∧
    (b ≠ 0 → polyQuot a b ≤ 255 ∧ polyRem a b ≤ a) ∧
    (xgcd a b).1 ≤ max a b ∧ (xgcd a b).2.1 ≤ 255 ∧ (xgcd a b).2.2 ≤ 255

/-! ### The substitution box (41_sbox.md) -/

/-- R132, 92_eei_decisions.md D15: whatever the draws, every byte value comes out exactly once; and the draws leave no
permutation out, so `DRAW` is as free a parameter as `PERM`. -/
def Obligations.DrawsGiveExactlyThePermutations : Prop :=
  (∀ (draw : Nat → (n : Nat) → Fin (n + 1)) (b : Byte), ∃ k : Byte, Table.lookup (permutationOf draw) k = b ∧
    ∀ j : Byte, Table.lookup (permutationOf draw) j = b → j = k) ∧
  ∀ perm : Table, (∀ j k : Byte, Table.lookup perm j = Table.lookup perm k → j = k) →
    ∃ draw : Nat → (n : Nat) → Fin (n + 1), permutationOf draw = perm

/-- R136, R137. -/
def Obligations.SeedHalves : Prop :=
  (∀ imm : BitVec 16, Decodes (0x20000000 + imm.toNat) (.seedLo imm)) ∧
  (∀ imm : BitVec 16, Decodes (0x21000000 + imm.toNat) (.seedHi imm)) ∧
  ∀ s : State, s.Running → ∀ imm : BitVec 16,
    exec (.seedLo imm) s = .next { s with seed := BitVec.ofNat 32 (s.seed.toNat / 2 ^ 16 * 2 ^ 16 + imm.toNat) } ∧
    exec (.seedHi imm) s = .next { s with seed := BitVec.ofNat 32 (imm.toNat * 2 ^ 16 + s.seed.toNat % 2 ^ 16) }

/-- R133 to R135, R138: `SB.BUILD` writes two mutually inverse tables, the forward one the affine image of the seed's
permutation in draw order, whatever the tables held; it sets SBV, clears KV and changes nothing else. -/
def Obligations.BuildGivesMutuallyInverseTables : Prop :=
  Decodes 0x22000000 .sbBuild ∧
  ∀ s : State, s.Running → ∃ t, exec .sbBuild s = .next t ∧
    { t with fwd := s.fwd, inv := s.inv, status := s.status } = s ∧
    t.status = { s.status with sbv := true, kv := false } ∧
    (∀ i : Byte, Table.lookup t.fwd i = affine (Table.lookup (permutation s.seed) i)) ∧ BoxesInverse t.fwd t.inv

/-- R139, R140: the lookups, with `SBOX_NOT_BUILT` (code 7) before `OPERAND_RANGE` (code 10). -/
def Obligations.BoxLookups : Prop :=
  (∀ d a : Reg, Decodes (0x23000000 + d.val * 2 ^ 20 + a.val * 2 ^ 16) (.sbFwd d a)) ∧
  (∀ d a : Reg, Decodes (0x24000000 + d.val * 2 ^ 20 + a.val * 2 ^ 16) (.sbInv d a)) ∧
  ∀ s : State, s.Running → ∀ d a : Reg,
    (s.status.sbv = false → exec (.sbFwd d a) s = .next (faulted s 7) ∧ exec (.sbInv d a) s = .next (faulted s 7)) ∧
    (s.status.sbv = true → 255 < s.p[a].toNat →
      exec (.sbFwd d a) s = .next (faulted s 10) ∧ exec (.sbInv d a) s = .next (faulted s 10)) ∧
    (∀ h : s.p[a].toNat < 256, s.status.sbv = true →
      exec (.sbFwd d a) s = .next { s with p := s.p.set d (BitVec.ofNat 16 (s.fwd[s.p[a].toNat]).toNat) } ∧
      exec (.sbInv d a) s = .next { s with p := s.p.set d (BitVec.ofNat 16 (s.inv[s.p[a].toNat]).toNat) })

/-- R130, R131, R141, R142: the bit reversal bit by bit, the affine step as a product in the field, and their two
commands, which need no table. -/
def Obligations.AffineAndBitReversal : Prop :=
  (∀ d a : Reg, Decodes (0x25000000 + d.val * 2 ^ 20 + a.val * 2 ^ 16) (.sbAff d a)) ∧
  (∀ d a : Reg, Decodes (0x26000000 + d.val * 2 ^ 20 + a.val * 2 ^ 16) (.sbBrev d a)) ∧
  (∀ b : Byte, (∀ i < 8, (bitrev8 b).getLsbD i = b.getLsbD (7 - i)) ∧ bitrev8 (bitrev8 b) = b ∧
    (affine b).toNat = polyMul (bitrev8 b).toNat 0x1F ^^^ 0x63) ∧
  ∀ s : State, s.Running → ∀ d a : Reg,
    (255 < s.p[a].toNat → exec (.sbAff d a) s = .next (faulted s 10) ∧ exec (.sbBrev d a) s = .next (faulted s 10)) ∧
    (∀ b : Byte, s.p[a].toNat = b.toNat →
      exec (.sbAff d a) s = .next { s with p := s.p.set d (BitVec.ofNat 16 (affine b).toNat) } ∧
      exec (.sbBrev d a) s = .next { s with p := s.p.set d (BitVec.ofNat 16 (bitrev8 b).toNat) })

/-! ### The state matrix and the rounds (42_state_rounds.md) -/

/-- R150, R157: column-major fill from DMEM, zeros after `len` bytes; `BLOCK_TOO_LONG` (code 2) before `DMEM_RANGE`
(code 9). -/
def Obligations.LoadState : Prop :=
  (∀ (a : Addr) (l : Len), Decodes (0x30000000 + l.val * 2 ^ 8 + a.toNat) (.stLd a l)) ∧
  ∀ s : State, s.Running → ∀ (a : Addr) (l : Len),
    (16 < l.val → exec (.stLd a l) s = .next (faulted s 2)) ∧
    (l.val ≤ 16 → 256 < a.toNat + l.val → exec (.stLd a l) s = .next (faulted s 9)) ∧
    (l.val ≤ 16 → a.toNat + l.val ≤ 256 → ∃ t, exec (.stLd a l) s = .next t ∧ { t with matrix := s.matrix } = s ∧
      ∀ i : Fin 16, flat t.matrix i = if i.val < l.val then byteAt s (a.toNat + i.val) else 0)

/-- R151, R158: the first `len` bytes of the flattened state to DMEM, nothing after them. -/
def Obligations.StoreState : Prop :=
  (∀ (a : Addr) (l : Len), Decodes (0x31000000 + l.val * 2 ^ 8 + a.toNat) (.stSt a l)) ∧
  ∀ s : State, s.Running → ∀ (a : Addr) (l : Len),
    (16 < l.val → exec (.stSt a l) s = .next (faulted s 2)) ∧
    (l.val ≤ 16 → 256 < a.toNat + l.val → exec (.stSt a l) s = .next (faulted s 9)) ∧
    (l.val ≤ 16 → a.toNat + l.val ≤ 256 → ∃ t, exec (.stSt a l) s = .next t ∧
      Stores s t a.toNat l.val (fun j => if h : j < 16 then flat s.matrix ⟨j, h⟩ else 0))

/-- R159, R160: one byte of the state by flat index. -/
def Obligations.GetAndSetStateByte : Prop :=
  (∀ (d : Reg) (k : Fin 16), Decodes (0x32000000 + d.val * 2 ^ 20 + k.val) (.stGet d k)) ∧
  (∀ (r : Reg) (k : Fin 16), Decodes (0x33000000 + r.val * 2 ^ 20 + k.val) (.stSet r k)) ∧
  ∀ s : State, s.Running →
    (∀ (d : Reg) (k : Fin 16),
      exec (.stGet d k) s = .next { s with p := s.p.set d (BitVec.ofNat 16 (flat s.matrix k).toNat) }) ∧
    (∀ (r : Reg) (k : Fin 16), 255 < s.p[r].toNat → exec (.stSet r k) s = .next (faulted s 10)) ∧
    (∀ (r : Reg) (k : Fin 16), s.p[r].toNat ≤ 255 → ∃ t, exec (.stSet r k) s = .next t ∧
      { t with matrix := s.matrix } = s ∧ (flat t.matrix k).toNat = s.p[r].toNat ∧
      ∀ j : Fin 16, j ≠ k → flat t.matrix j = flat s.matrix j)

/-- R152, R161, R162: every byte through the box, position kept; `SBOX_NOT_BUILT` (code 7) without one. -/
def Obligations.SubstituteBytes : Prop :=
  Decodes 0x34000000 .subbytes ∧ Decodes 0x35000000 .isubbytes ∧
  ∀ s : State, s.Running →
    (s.status.sbv = false → exec .subbytes s = .next (faulted s 7) ∧ exec .isubbytes s = .next (faulted s 7)) ∧
    (s.status.sbv = true →
      (∃ t, exec .subbytes s = .next t ∧ { t with matrix := s.matrix } = s ∧
        ∀ i : Fin 16, flat t.matrix i = s.fwd[(flat s.matrix i).toNat]'(flat s.matrix i).isLt) ∧
      (∃ t, exec .isubbytes s = .next t ∧ { t with matrix := s.matrix } = s ∧
        ∀ i : Fin 16, flat t.matrix i = s.inv[(flat s.matrix i).toNat]'(flat s.matrix i).isLt))

/-- R153, R163, R164: the rows rotated, by the flat positions R153 lists, in both directions. -/
def Obligations.ShiftRowsPositions : Prop :=
  Decodes 0x36000000 .shiftrows ∧ Decodes 0x37000000 .ishiftrows ∧
  ∀ s : State, s.Running →
    (∃ t, exec .shiftrows s = .next t ∧ { t with matrix := s.matrix } = s ∧
      ∀ i : Fin 16, flat t.matrix i =
        flat s.matrix ((#v[0, 5, 10, 15, 4, 9, 14, 3, 8, 13, 2, 7, 12, 1, 6, 11] : Vector (Fin 16) 16)[i])) ∧
    (∃ t, exec .ishiftrows s = .next t ∧ { t with matrix := s.matrix } = s ∧
      ∀ i : Fin 16, flat t.matrix i =
        flat s.matrix ((#v[0, 13, 10, 7, 4, 1, 14, 11, 8, 5, 2, 15, 12, 9, 6, 3] : Vector (Fin 16) 16)[i]))

/-- R154, R155, R165, R166: each column times the matrix with rows [2, 3, 1, 1] or [14, 11, 13, 9], each further row
rotated right, in the field; column `c` is the flat bytes `4c` to `4c + 3`. -/
def Obligations.MixColumnsProducts : Prop :=
  Decodes 0x38000000 .mixcols ∧ Decodes 0x39000000 .imixcols ∧
  ∀ s : State, s.Running →
    (∃ t, exec .mixcols s = .next t ∧ { t with matrix := s.matrix } = s ∧ ∀ c i : Fin 4,
      (flat t.matrix ⟨4 * c.val + i.val, by omega⟩).toNat =
        polyMul 2 (flat s.matrix ⟨4 * c.val + i.val, by omega⟩).toNat ^^^
        polyMul 3 (flat s.matrix ⟨4 * c.val + (i.val + 1) % 4, by omega⟩).toNat ^^^
        (flat s.matrix ⟨4 * c.val + (i.val + 2) % 4, by omega⟩).toNat ^^^
        (flat s.matrix ⟨4 * c.val + (i.val + 3) % 4, by omega⟩).toNat) ∧
    (∃ t, exec .imixcols s = .next t ∧ { t with matrix := s.matrix } = s ∧ ∀ c i : Fin 4,
      (flat t.matrix ⟨4 * c.val + i.val, by omega⟩).toNat =
        polyMul 14 (flat s.matrix ⟨4 * c.val + i.val, by omega⟩).toNat ^^^
        polyMul 11 (flat s.matrix ⟨4 * c.val + (i.val + 1) % 4, by omega⟩).toNat ^^^
        polyMul 13 (flat s.matrix ⟨4 * c.val + (i.val + 2) % 4, by omega⟩).toNat ^^^
        polyMul 9 (flat s.matrix ⟨4 * c.val + (i.val + 3) % 4, by omega⟩).toNat)

/-- R156, R167: the XOR with a round key, `KEY_NOT_EXPANDED` (code 8) before `OPERAND_RANGE` (code 10). -/
def Obligations.AddRoundKeyFromTheFile : Prop :=
  (∀ k : Fin 16, Decodes (0x3A000000 + k.val) (.ark k)) ∧
  ∀ s : State, s.Running → ∀ k : Fin 16,
    (s.status.kv = false → exec (.ark k) s = .next (faulted s 8)) ∧
    (s.status.kv = true → s.ctrl.ks.nr < k.val → exec (.ark k) s = .next (faulted s 10)) ∧
    (∀ h : k.val < 15, s.status.kv = true → k.val ≤ s.ctrl.ks.nr →
      ∃ t, exec (.ark k) s = .next t ∧ { t with matrix := s.matrix } = s ∧
        ∀ i : Fin 16, flat t.matrix i = flat s.matrix i ^^^ flat s.rk[k.val] i)

/-- R168: the XOR with a block from DMEM, zero-padded; it needs neither box nor key. -/
def Obligations.AddBlockFromDmem : Prop :=
  (∀ (a : Addr) (l : Len), Decodes (0x3B000000 + l.val * 2 ^ 8 + a.toNat) (.arkm a l)) ∧
  ∀ s : State, s.Running → ∀ (a : Addr) (l : Len),
    (16 < l.val → exec (.arkm a l) s = .next (faulted s 2)) ∧
    (l.val ≤ 16 → 256 < a.toNat + l.val → exec (.arkm a l) s = .next (faulted s 9)) ∧
    (l.val ≤ 16 → a.toNat + l.val ≤ 256 → ∃ t, exec (.arkm a l) s = .next t ∧ { t with matrix := s.matrix } = s ∧
      ∀ i : Fin 16, flat t.matrix i =
        if i.val < l.val then flat s.matrix i ^^^ byteAt s (a.toNat + i.val) else flat s.matrix i)

/-- R169: the round transformations and their inverses undo each other. With it the two equations of R170, which
the spec marks as derived: `mixColumns` is linear over XOR, and `shiftRows` commutes with `byteSubstitution`. -/
def Obligations.RoundTransformationsUndoEachOther : Prop :=
  (∀ m : Matrix,
    shiftRows .inverse (shiftRows .forward m) = m ∧ shiftRows .forward (shiftRows .inverse m) = m ∧
    mixColumns .inverse (mixColumns .forward m) = m ∧ mixColumns .forward (mixColumns .inverse m) = m ∧
    (∀ k : Matrix, addRoundKey (addRoundKey m k) k = m) ∧
    ∀ fwd inv : Table, BoxesInverse fwd inv →
      byteSubstitution (byteSubstitution m fwd) inv = m ∧ byteSubstitution (byteSubstitution m inv) fwd = m) ∧
  ∀ (d : Direction) (m n : Matrix) (box : Table),
    mixColumns d (addRoundKey m n) = addRoundKey (mixColumns d m) (mixColumns d n) ∧
    shiftRows d (byteSubstitution m box) = byteSubstitution (shiftRows d m) box

/-! ### The key (43_keyschedule.md) -/

/-- R186: the configuration, whose word has imm16[15:5] zero: `KEY_PARAM` (code 4) before `CHAIN_MODE` (code 5); KV is
cleared whatever changes. -/
def Obligations.ConfigureCommand : Prop :=
  (∀ imm : BitVec 16, imm.toNat < 32 → Decodes (0x40000000 + imm.toNat) (.cfg imm)) ∧
  (∀ (n : Nat) (s : State), s.Running → 32 ≤ n → n < 2 ^ 16 →
    issueWord (BitVec.ofNat 32 (0x40000000 + n)) s = .next (faulted s 6)) ∧
  ∀ s : State, s.Running → ∀ imm : BitVec 16, imm.toNat < 32 →
    (imm.toNat % 4 = 3 → exec (.cfg imm) s = .next (faulted s 4)) ∧
    (imm.toNat % 4 ≠ 3 → 3 < imm.toNat / 4 % 8 → exec (.cfg imm) s = .next (faulted s 5)) ∧
    (∀ (k : Fin 3) (m : Fin 4), imm.toNat % 4 = k.val → imm.toNat / 4 % 8 = m.val →
      exec (.cfg imm) s = .next { s with
        ctrl := { ks := #v[KeySize.k128, KeySize.k192, KeySize.k256][k], mode := #v[ChainMode.ecb, ChainMode.cbc,
          ChainMode.ofb, ChainMode.cfb][m] }
        status := { s.status with kv := false } })

/-- R180 to R183, R185: the words of the schedule, for both values of `KS_T_ARG`: the key's own words, then each the
previous word XORed with the word `Nk` before it, or at a multiple of `Nk` with `T` of the boundary or the previous
word. The two readings are the spec's own switch (92_eei_decisions.md D16), log entry 4. -/
def Obligations.KeyScheduleRecurrence : Prop :=
  ∀ (arg : KsTArg) (key : List Byte) (ks : KeySize) (fwd : Table), key.length * 8 = ks.keyBits →
    (scheduleWords arg key ks fwd).length = 4 * (ks.nr + 1) ∧
    (∀ (n : Nat) (j : Fin 4), n < ks.nk →
      (wordAt (scheduleWords arg key ks fwd) n)[j] = key.getD (4 * n + j.val) 0) ∧
    (∀ (n : Nat) (j : Fin 4), ks.nk ≤ n → n < 4 * (ks.nr + 1) →
      (wordAt (scheduleWords arg key ks fwd) n)[j] = (wordAt (scheduleWords arg key ks fwd) (n - 1))[j] ^^^
        (if n % ks.nk = 0 then
          Table.lookup fwd (wordAt (scheduleWords arg key ks fwd)
            (match arg with | .boundary => n - ks.nk | .previous => n - 1))[j + 1] ^^^
          (if j = 0 then BitVec.ofNat 8 (2 ^ (n / ks.nk)) else 0)
        else (wordAt (scheduleWords arg key ks fwd) (n - ks.nk))[j]))

/-- R184, R187: the expansion into RK[0..Nr], word `4k + c` the column `c` of round key `k`, RK above Nr and all else
unchanged but KV; `SBOX_NOT_BUILT` (7), `KEY_LENGTH` (3), `DMEM_RANGE` (9) in that order. `KS_T_ARG` is `BOUNDARY`, the
spec's own decision (92_eei_decisions.md D16), log entry 4. -/
def Obligations.ExpandKeyCommand : Prop :=
  (∀ (a : Addr) (l : Len), Decodes (0x41000000 + l.val * 2 ^ 8 + a.toNat) (.kexp a l)) ∧
  ∀ s : State, s.Running → ∀ (a : Addr) (l : Len),
    (s.status.sbv = false → exec (.kexp a l) s = .next (faulted s 7)) ∧
    (s.status.sbv = true → l.val * 8 ≠ s.ctrl.ks.keyBits → exec (.kexp a l) s = .next (faulted s 3)) ∧
    (s.status.sbv = true → l.val * 8 = s.ctrl.ks.keyBits → 256 < a.toNat + l.val →
      exec (.kexp a l) s = .next (faulted s 9)) ∧
    (s.status.sbv = true → l.val * 8 = s.ctrl.ks.keyBits → a.toNat + l.val ≤ 256 →
      ∃ t, exec (.kexp a l) s = .next t ∧ { t with rk := s.rk, status := s.status } = s ∧
        t.status = { s.status with kv := true } ∧
        ∃ key : List Byte, key.length = l.val ∧ (∀ j < l.val, key.getD j 0 = byteAt s (a.toNat + j)) ∧
          ∀ (k : Fin 15) (c j : Fin 4),
            (k.val ≤ s.ctrl.ks.nr → flat t.rk[k] ⟨4 * c.val + j.val, by omega⟩ =
              (wordAt (scheduleWords .boundary key s.ctrl.ks s.fwd) (4 * k.val + c.val))[j]) ∧
            (s.ctrl.ks.nr < k.val → t.rk[k] = s.rk[k]))

/-- R188: a round key, flattened, to DMEM; `KEY_NOT_EXPANDED` (8), `OPERAND_RANGE` (10), `DMEM_RANGE` (9) in that
order. -/
def Obligations.StoreRoundKeyCommand : Prop :=
  (∀ (a : Addr) (k : Fin 64), Decodes (0x42000000 + k.val * 2 ^ 8 + a.toNat) (.rkSt a k)) ∧
  ∀ s : State, s.Running → ∀ (a : Addr) (k : Fin 64),
    (s.status.kv = false → exec (.rkSt a k) s = .next (faulted s 8)) ∧
    (s.status.kv = true → s.ctrl.ks.nr < k.val → exec (.rkSt a k) s = .next (faulted s 10)) ∧
    (s.status.kv = true → k.val ≤ s.ctrl.ks.nr → 240 < a.toNat → exec (.rkSt a k) s = .next (faulted s 9)) ∧
    (∀ h : k.val < 15, s.status.kv = true → k.val ≤ s.ctrl.ks.nr → a.toNat ≤ 240 →
      ∃ t, exec (.rkSt a k) s = .next t ∧
        Stores s t a.toNat 16 (fun j => if hj : j < 16 then flat s.rk[k.val] ⟨j, hj⟩ else 0))

/-! ### The cipher core (44_cipher.md) -/

/-- R200, R203: `ENCB` adds round key 0, runs the full rounds 1 to Nr - 1 and the final round without `mixColumns`, and
changes S alone; `KEY_NOT_EXPANDED` (code 8) without a key. -/
def Obligations.EncryptBlockRounds : Prop :=
  Decodes 0x50000000 .encb ∧
  ∀ s : State, s.Running →
    (s.status.kv = false → exec .encb s = .next (faulted s 8)) ∧
    (s.status.kv = true → ∃ t, exec .encb s = .next t ∧ { t with matrix := s.matrix } = s ∧
      ∃ m : Nat → Matrix, m 0 = addRoundKey s.matrix s.rk[0] ∧
        (∀ (i : Nat) (h : i < 15), 1 ≤ i → i < s.ctrl.ks.nr →
          m i = addRoundKey (mixColumns .forward (shiftRows .forward (byteSubstitution (m (i - 1)) s.fwd))) s.rk[i]) ∧
        ∀ h : s.ctrl.ks.nr < 15, t.matrix =
          addRoundKey (shiftRows .forward (byteSubstitution (m (s.ctrl.ks.nr - 1)) s.fwd)) s.rk[s.ctrl.ks.nr])

/-- R201, R204: `DECB` consumes the round keys in reverse order, the round key added before the inverse `mixColumns`;
`m i` is the matrix after the pass of round `i`. -/
def Obligations.DecryptBlockRounds : Prop :=
  Decodes 0x51000000 .decb ∧
  ∀ s : State, s.Running →
    (s.status.kv = false → exec .decb s = .next (faulted s 8)) ∧
    (s.status.kv = true → ∃ t, exec .decb s = .next t ∧ { t with matrix := s.matrix } = s ∧
      ∃ m : Nat → Matrix,
        (∀ h : s.ctrl.ks.nr < 15, m s.ctrl.ks.nr = addRoundKey s.matrix s.rk[s.ctrl.ks.nr]) ∧
        (∀ (i : Nat) (h : i < 15), 1 ≤ i → i < s.ctrl.ks.nr →
          m i = mixColumns .inverse
            (addRoundKey (byteSubstitution (shiftRows .inverse (m (i + 1))) s.inv) s.rk[i])) ∧
        t.matrix = addRoundKey (byteSubstitution (shiftRows .inverse (m 1)) s.inv) s.rk[0])

/-- R202: `DECB` undoes `ENCB` and `ENCB` undoes `DECB`, for every block, every round keys and every pair of mutually
inverse tables, whatever made them. -/
def Obligations.DecryptUndoesEncrypt : Prop :=
  ∀ s : State, s.Running → s.status.kv = true → BoxesInverse s.fwd s.inv →
    (∃ t, exec .encb s = .next t ∧ exec .decb t = .next s) ∧ (∃ t, exec .decb s = .next t ∧ exec .encb t = .next s)

/-- R202, R205: the guarantee on a block in DMEM. Encrypting the `n` bytes at `src` to `mid` and decrypting those 16 bytes
to `dst` leaves at `dst` the block padded with zeros; the three regions may overlap. -/
def Obligations.DecryptedBlockIsTheZeroPaddedBlock : Prop :=
  ∀ s : State, s.Running → s.status.kv = true → BoxesInverse s.fwd s.inv →
    ∀ (src mid dst : Addr) (n : Len), n.val ≤ 16 → src.toNat + n.val ≤ 256 → mid.toNat ≤ 240 → dst.toNat ≤ 240 →
      ∃ t, execAll [.stLd src n, .encb, .stSt mid 16, .stLd mid 16, .decb, .stSt dst 16] s = .next t ∧
        ∀ j < 16, byteAt t (dst.toNat + j) = if j < n.val then byteAt s (src.toNat + j) else 0

/-- R206: `ENCB` and `DECB` leave exactly what the round commands leave, issued one by one. -/
def Obligations.BlockCommandsEqualTheRoundCommands : Prop :=
  ∀ s : State, s.Running → s.status.kv = true → s.status.sbv = true →
    (∃ t, exec .encb s = .next t ∧ execAll
      (.ark 0 :: (List.range' 1 (s.ctrl.ks.nr - 1)).flatMap
          (fun i => [.subbytes, .shiftrows, .mixcols, .ark (Fin.ofNat 16 i)]) ++
        [.subbytes, .shiftrows, .ark (Fin.ofNat 16 s.ctrl.ks.nr)]) s = .next t) ∧
    (∃ t, exec .decb s = .next t ∧ execAll
      (.ark (Fin.ofNat 16 s.ctrl.ks.nr) :: (List.range' 1 (s.ctrl.ks.nr - 1)).reverse.flatMap
          (fun i => [.ishiftrows, .isubbytes, .ark (Fin.ofNat 16 i), .imixcols]) ++
        [.ishiftrows, .isubbytes, .ark 0]) s = .next t)

/-! ### Chaining (45_chaining.md) -/

/-- R216, R219: the chain register zeroed, and stored to DMEM (`DMEM_RANGE`, code 9, above address 240). -/
def Obligations.InitAndStoreChainRegister : Prop :=
  Decodes 0x58000000 .chInit ∧ (∀ a : Addr, Decodes (0x5B000000 + a.toNat) (.chSt a)) ∧
  ∀ s : State, s.Running →
    (∃ t, exec .chInit s = .next t ∧ { t with chain := s.chain } = s ∧ ∀ i : Fin 16, t.chain[i] = 0) ∧
    ∀ a : Addr, (240 < a.toNat → exec (.chSt a) s = .next (faulted s 9)) ∧
      (a.toNat ≤ 240 → ∃ t, exec (.chSt a) s = .next t ∧
        Stores s t a.toNat 16 (fun j => if h : j < 16 then s.chain[j] else 0))

/-- R212 to R215, R217: `CH.ENC` in the four modes, in terms of what `ENCB` does to a block. -/
def Obligations.ChainedEncryption : Prop :=
  Decodes 0x59000000 .chEnc ∧
  ∀ s : State, s.Running →
    (s.status.kv = false → exec .chEnc s = .next (faulted s 8)) ∧
    (s.status.kv = true → ∃ x y o r : Block, (∀ i : Fin 16, x[i] = flat s.matrix i) ∧
      exec .chEnc s = .next { s with matrix := toState y.toList, chain := r } ∧
      match s.ctrl.mode with
      | .ecb => EncryptsTo s x y ∧ r = s.chain
      | .cbc => (∀ i : Fin 16, o[i] = x[i] ^^^ s.chain[i]) ∧ EncryptsTo s o y ∧ r = y
      | .ofb => EncryptsTo s s.chain o ∧ (∀ i : Fin 16, y[i] = x[i] ^^^ o[i]) ∧ r = o
      | .cfb => EncryptsTo s s.chain o ∧ (∀ i : Fin 16, y[i] = x[i] ^^^ o[i]) ∧ r = y)

/-- R212 to R215, R218: `CH.DEC` in the four modes, in terms of what `DECB` and `ENCB` do to a block. -/
def Obligations.ChainedDecryption : Prop :=
  Decodes 0x5A000000 .chDec ∧
  ∀ s : State, s.Running →
    (s.status.kv = false → exec .chDec s = .next (faulted s 8)) ∧
    (s.status.kv = true → ∃ x y o r : Block, (∀ i : Fin 16, x[i] = flat s.matrix i) ∧
      exec .chDec s = .next { s with matrix := toState y.toList, chain := r } ∧
      match s.ctrl.mode with
      | .ecb => DecryptsTo s x y ∧ r = s.chain
      | .cbc => DecryptsTo s x o ∧ (∀ i : Fin 16, y[i] = o[i] ^^^ s.chain[i]) ∧ r = x
      | .ofb => EncryptsTo s s.chain o ∧ (∀ i : Fin 16, y[i] = x[i] ^^^ o[i]) ∧ r = o
      | .cfb => EncryptsTo s s.chain o ∧ (∀ i : Fin 16, y[i] = x[i] ^^^ o[i]) ∧ r = x)

/-- R213 to R215 read together: in every mode `CH.DEC`, with the chain register the block was encrypted under, undoes
`CH.ENC` on a whole block and leaves the same chain register. -/
def Obligations.ChainedDecryptionUndoesEncryption : Prop :=
  ∀ s : State, s.Running → s.status.kv = true → BoxesInverse s.fwd s.inv →
    ∃ t u, exec .chEnc s = .next t ∧ exec .chDec { t with chain := s.chain } = .next u ∧
      u.matrix = s.matrix ∧ u.chain = t.chain
end

