-- ==== Sys2Proof/Laws/Matrix.lean ====
section
/-! SUPPORT. What each matrix and block function gives at a row and a column or at a flat index, and that packing and
flattening undo each other (42_state_rounds.md R150 to R156). -/

namespace Sys2Proof.Machine

/-- Two matrices with equal entries are equal. -/
theorem Matrix.ext_entry {m n : Matrix} (h : ∀ r c, Matrix.entry m r c = Matrix.entry n r c) : m = n :=
  Vector.ext fun r hr => Vector.ext fun c hc => h ⟨r, hr⟩ ⟨c, hc⟩

@[simp] theorem Matrix.entry_ofFn (f : Fin 4 → Fin 4 → Byte) (r c : Fin 4) :
    Matrix.entry (Matrix.ofFn f) r c = f r c := by simp [Matrix.entry, Matrix.ofFn]

@[simp] theorem entry_toState (seq : List Byte) (r c : Fin 4) :
    Matrix.entry (toState seq) r c = seq.getD (4 * c.val + r.val) 0 := Matrix.entry_ofFn _ r c

@[simp] theorem entry_byteSubstitution (m : Matrix) (box : Table) (r c : Fin 4) :
    Matrix.entry (byteSubstitution m box) r c = Table.lookup box (Matrix.entry m r c) := Matrix.entry_ofFn _ r c

@[simp] theorem entry_shiftRows_forward (m : Matrix) (r c : Fin 4) :
    Matrix.entry (shiftRows .forward m) r c = Matrix.entry m r (c + r) := Matrix.entry_ofFn _ r c

@[simp] theorem entry_shiftRows_inverse (m : Matrix) (r c : Fin 4) :
    Matrix.entry (shiftRows .inverse m) r c = Matrix.entry m r (c - r) := Matrix.entry_ofFn _ r c

@[simp] theorem entry_mixMatrix (dir : Direction) (i k : Fin 4) :
    Matrix.entry (mixMatrix dir) i k = (mixFirstRow dir)[k - i] := Matrix.entry_ofFn _ i k

theorem entry_mixProduct (x m : Matrix) (i c : Fin 4) :
    Matrix.entry (mixProduct x m) i c =
      byteMul (Matrix.entry x i 0) (Matrix.entry m 0 c) ^^^ byteMul (Matrix.entry x i 1) (Matrix.entry m 1 c) ^^^
        byteMul (Matrix.entry x i 2) (Matrix.entry m 2 c) ^^^ byteMul (Matrix.entry x i 3) (Matrix.entry m 3 c) :=
  Matrix.entry_ofFn _ i c

@[simp] theorem entry_addRoundKey (m k : Matrix) (r c : Fin 4) :
    Matrix.entry (addRoundKey m k) r c = Matrix.entry m r c ^^^ Matrix.entry k r c := Matrix.entry_ofFn _ r c

/-- Flat index `4c + r` is row `r`, column `c` (10_state.md R27). -/
theorem flatRow_flat {r c : Fin 4} (h : 4 * c.val + r.val < 16) : flatRow ⟨4 * c.val + r.val, h⟩ = r :=
  Fin.ext (by simp only [flatRow]; omega)

theorem flatCol_flat {r c : Fin 4} (h : 4 * c.val + r.val < 16) : flatCol ⟨4 * c.val + r.val, h⟩ = c :=
  Fin.ext (by simp only [flatCol]; omega)

@[simp] theorem fromState_getElem (m : Matrix) (i : Nat) (h : i < 16) :
    (fromState m)[i] = Matrix.entry m (flatRow ⟨i, h⟩) (flatCol ⟨i, h⟩) := by simp [fromState]

@[simp] theorem xorBlock_getElem (x y : Block) (i : Nat) (h : i < 16) : (xorBlock x y)[i] = x[i] ^^^ y[i] := by
  simp [xorBlock]

@[simp] theorem xorWord_getElem (x y : KeyWord) (j : Nat) (h : j < 4) : (xorWord x y)[j] = x[j] ^^^ y[j] := by
  simp [xorWord]

@[simp] theorem keyWord_getElem (key : List Byte) (i j : Nat) (h : j < 4) :
    (keyWord key i)[j] = key.getD (4 * i + j) 0 := by simp [keyWord]

/-- Entry `r`, `c` of the matrix of a block is byte `4c + r` of the block (10_state.md R27). -/
theorem entry_blockToState (b : Block) (r c : Fin 4) :
    Matrix.entry (blockToState b) r c = b[4 * c.val + r.val] := by
  have h : 4 * c.val + r.val < 16 := by omega
  simp [blockToState, List.getD_eq_getElem?_getD, Vector.getElem?_eq_getElem h]

/-- `ToState(FromState(M)) = M` (42_state_rounds.md R151). -/
theorem blockToState_fromState (m : Matrix) : blockToState (fromState m) = m :=
  Matrix.ext_entry fun r c => by
    rw [entry_blockToState, fromState_getElem, flatRow_flat, flatCol_flat]

/-- `FromState(ToState(B)) = B` for a whole block (42_state_rounds.md R151). -/
theorem fromState_blockToState (b : Block) : fromState (blockToState b) = b := by
  apply Vector.ext
  intro i hi
  rw [fromState_getElem, entry_blockToState]
  congr 1
  simp only [flatRow, flatCol]; omega

end Sys2Proof.Machine
end

