-- ==== Sys2Proof/Laws/Memory.lean ====
section
/-! SUPPORT. The laws of DMEM: what a read gives after a write, and that every memory operation keeps the canonical form
(20_memory.md R50 to R58). -/

namespace Sys2Proof.Machine

/-- A lower bound on the addresses of a canonical memory may be lowered. -/
theorem Memory.wfFrom_mono {lo lo' : Nat} {m : Memory} (hle : lo' ≤ lo) (h : Memory.wfFrom lo m = true) :
    Memory.wfFrom lo' m = true := by
  cases m with
  | nil => rfl
  | cons c m =>
    simp only [Memory.wfFrom, Bool.and_eq_true, decide_eq_true_eq] at h ⊢
    exact ⟨⟨hle.trans h.1.1, h.1.2⟩, h.2⟩

/-- Below the first address nothing is written. -/
theorem Memory.find_eq_none_of_lt {lo a : Nat} {m : Memory} (h : Memory.wfFrom lo m = true) (ha : a < lo) :
    Memory.find m a = none := by
  induction m generalizing lo with
  | nil => rfl
  | cons c m ih =>
    simp only [Memory.wfFrom, Bool.and_eq_true, decide_eq_true_eq] at h
    have hne : c.1 ≠ a := by omega
    simp only [Memory.find, hne, if_false]
    exact ih h.2 (by omega)

/-- A write at an address of DMEM keeps the canonical form. -/
theorem Memory.wfFrom_write {lo a : Nat} {m : Memory} (b : Byte) (h : Memory.wfFrom lo m = true) (hlo : lo ≤ a)
    (ha : a < 256) : Memory.wfFrom lo (Memory.write m a b) = true := by
  induction m generalizing lo with
  | nil => simp [Memory.write, Memory.wfFrom, hlo, ha]
  | cons c m ih =>
    simp only [Memory.wfFrom, Bool.and_eq_true, decide_eq_true_eq] at h
    unfold Memory.write
    split
    · simp only [Memory.wfFrom, Bool.and_eq_true, decide_eq_true_eq]; exact ⟨⟨hlo, ha⟩, ⟨by omega, h.1.2⟩, h.2⟩
    · split
      · next heq => subst heq; simp only [Memory.wfFrom, Bool.and_eq_true, decide_eq_true_eq]; exact ⟨⟨hlo, ha⟩, h.2⟩
      · simp only [Memory.wfFrom, Bool.and_eq_true, decide_eq_true_eq]; exact ⟨h.1, ih h.2 (by omega)⟩

/-- A write at an address of DMEM keeps the canonical form. -/
theorem Memory.wf_write {a : Nat} {m : Memory} (b : Byte) (h : Memory.wf m = true) (ha : a < 256) :
    Memory.wf (Memory.write m a b) = true := Memory.wfFrom_write b h (Nat.zero_le a) ha

/-- A run of writes inside DMEM keeps the canonical form. -/
theorem Memory.wf_writeRun {a : Nat} {m : Memory} {v : List Byte} (h : Memory.wf m = true) (ha : a + v.length ≤ 256) :
    Memory.wf (Memory.writeRun m a v) = true := by
  induction v generalizing m a with
  | nil => exact h
  | cons b v ih =>
    simp only [List.length_cons] at ha
    exact ih (Memory.wf_write b h (by omega)) (by omega)

/-- What an address holds after a write, in any memory. -/
theorem Memory.find_write (m : Memory) (a x : Nat) (b : Byte) :
    Memory.find (Memory.write m a b) x = if x = a then some b else Memory.find m x := by
  induction m with
  | nil => by_cases h : a = x <;> simp [Memory.write, Memory.find, h, eq_comm]
  | cons c m ih =>
    unfold Memory.write
    split
    · by_cases h : a = x <;> simp [Memory.find, h, eq_comm]
    · split
      · next heq =>
        subst heq
        by_cases h : x = c.1
        · simp [Memory.find, h]
        · simp [Memory.find, h, Ne.symm h]
      · next hne =>
        simp only [Memory.find, ih]
        by_cases h : c.1 = x
        · have : x ≠ a := by omega
          simp [h, this]
        · simp [h]

/-- A byte reads back as written, and every other byte as before. -/
theorem Memory.read_write (m : Memory) (a x : Nat) (b : Byte) :
    Memory.read (Memory.write m a b) x = if x = a then b else Memory.read m x := by
  unfold Memory.read; rw [Memory.find_write]; split <;> rfl

@[simp] theorem Memory.read_write_self (m : Memory) (a : Nat) (b : Byte) :
    Memory.read (Memory.write m a b) a = b := by simp [Memory.read_write]

/-- After a run of writes the bytes of the run read back, and every other byte reads as before. -/
theorem Memory.read_writeRun (m : Memory) (a x : Nat) (v : List Byte) :
    Memory.read (Memory.writeRun m a v) x =
      if h : a ≤ x ∧ x < a + v.length then v[x - a]'(by omega) else Memory.read m x := by
  induction v generalizing m a with
  | nil => simp only [Memory.writeRun, List.length_nil]; rw [dif_neg (by omega)]
  | cons b v ih =>
    simp only [Memory.writeRun, List.length_cons, ih, Memory.read_write]
    by_cases hx : x = a
    · subst hx; rw [dif_neg (by omega), dif_pos (by omega), if_pos rfl]; simp
    · by_cases h : a + 1 ≤ x ∧ x < a + 1 + v.length
      · rw [dif_pos h, dif_pos (by omega)]
        obtain ⟨k, hk⟩ : ∃ k, x - a = k + 1 := ⟨x - a - 1, by omega⟩
        have : x - (a + 1) = k := by omega
        simp [hk, this]
      · rw [dif_neg h, dif_neg (by omega), if_neg hx]

@[simp] theorem Memory.length_readRun (m : Memory) (a n : Nat) : (Memory.readRun m a n).length = n := by
  induction n generalizing a with
  | zero => rfl
  | succ n ih => simp [Memory.readRun, ih]

/-- Byte `i` of a run read at `a` is the byte at `a + i`. -/
theorem Memory.getElem_readRun (m : Memory) (a n i : Nat) (h : i < (Memory.readRun m a n).length) :
    (Memory.readRun m a n)[i] = Memory.read m (a + i) := by
  induction n generalizing a i with
  | zero => simp [Memory.readRun] at h
  | succ n ih =>
    cases i with
    | zero => simp [Memory.readRun]
    | succ i =>
      simp only [Memory.readRun, List.getElem_cons_succ, ih]
      congr 1; omega

end Sys2Proof.Machine
end

