-- ==== Sys2Proof/Laws/State.lean ====
section
/-! SUPPORT. What each update of the state leaves in each field: one lemma for each field and update. -/

namespace Sys2Proof.Machine

@[simp] theorem State.writeP_p (s : State) (d : Reg) (v : PolyWord) : (s.writeP d v).p = s.p.set d v := rfl
@[simp] theorem State.writeP_matrix (s : State) (d : Reg) (v : PolyWord) : (s.writeP d v).matrix = s.matrix := rfl
@[simp] theorem State.writeP_chain (s : State) (d : Reg) (v : PolyWord) : (s.writeP d v).chain = s.chain := rfl
@[simp] theorem State.writeP_fwd (s : State) (d : Reg) (v : PolyWord) : (s.writeP d v).fwd = s.fwd := rfl
@[simp] theorem State.writeP_inv (s : State) (d : Reg) (v : PolyWord) : (s.writeP d v).inv = s.inv := rfl
@[simp] theorem State.writeP_rk (s : State) (d : Reg) (v : PolyWord) : (s.writeP d v).rk = s.rk := rfl
@[simp] theorem State.writeP_ctrl (s : State) (d : Reg) (v : PolyWord) : (s.writeP d v).ctrl = s.ctrl := rfl
@[simp] theorem State.writeP_status (s : State) (d : Reg) (v : PolyWord) : (s.writeP d v).status = s.status := rfl
@[simp] theorem State.writeP_seed (s : State) (d : Reg) (v : PolyWord) : (s.writeP d v).seed = s.seed := rfl
@[simp] theorem State.writeP_dmem (s : State) (d : Reg) (v : PolyWord) : (s.writeP d v).dmem = s.dmem := rfl
@[simp] theorem State.writeP_host (s : State) (d : Reg) (v : PolyWord) : (s.writeP d v).host = s.host := rfl

@[simp] theorem State.writePoly_p (s : State) (d : Reg) (v : Poly) : (s.writePoly d v).p = s.p.set d (BitVec.ofNat 16 v) := rfl
@[simp] theorem State.writePoly_matrix (s : State) (d : Reg) (v : Poly) : (s.writePoly d v).matrix = s.matrix := rfl
@[simp] theorem State.writePoly_chain (s : State) (d : Reg) (v : Poly) : (s.writePoly d v).chain = s.chain := rfl
@[simp] theorem State.writePoly_fwd (s : State) (d : Reg) (v : Poly) : (s.writePoly d v).fwd = s.fwd := rfl
@[simp] theorem State.writePoly_inv (s : State) (d : Reg) (v : Poly) : (s.writePoly d v).inv = s.inv := rfl
@[simp] theorem State.writePoly_rk (s : State) (d : Reg) (v : Poly) : (s.writePoly d v).rk = s.rk := rfl
@[simp] theorem State.writePoly_ctrl (s : State) (d : Reg) (v : Poly) : (s.writePoly d v).ctrl = s.ctrl := rfl
@[simp] theorem State.writePoly_status (s : State) (d : Reg) (v : Poly) : (s.writePoly d v).status = s.status := rfl
@[simp] theorem State.writePoly_seed (s : State) (d : Reg) (v : Poly) : (s.writePoly d v).seed = s.seed := rfl
@[simp] theorem State.writePoly_dmem (s : State) (d : Reg) (v : Poly) : (s.writePoly d v).dmem = s.dmem := rfl
@[simp] theorem State.writePoly_host (s : State) (d : Reg) (v : Poly) : (s.writePoly d v).host = s.host := rfl

@[simp] theorem State.writeByte_p (s : State) (d : Reg) (b : Byte) : (s.writeByte d b).p = s.p.set d (b.setWidth 16) := rfl
@[simp] theorem State.writeByte_matrix (s : State) (d : Reg) (b : Byte) : (s.writeByte d b).matrix = s.matrix := rfl
@[simp] theorem State.writeByte_chain (s : State) (d : Reg) (b : Byte) : (s.writeByte d b).chain = s.chain := rfl
@[simp] theorem State.writeByte_fwd (s : State) (d : Reg) (b : Byte) : (s.writeByte d b).fwd = s.fwd := rfl
@[simp] theorem State.writeByte_inv (s : State) (d : Reg) (b : Byte) : (s.writeByte d b).inv = s.inv := rfl
@[simp] theorem State.writeByte_rk (s : State) (d : Reg) (b : Byte) : (s.writeByte d b).rk = s.rk := rfl
@[simp] theorem State.writeByte_ctrl (s : State) (d : Reg) (b : Byte) : (s.writeByte d b).ctrl = s.ctrl := rfl
@[simp] theorem State.writeByte_status (s : State) (d : Reg) (b : Byte) : (s.writeByte d b).status = s.status := rfl
@[simp] theorem State.writeByte_seed (s : State) (d : Reg) (b : Byte) : (s.writeByte d b).seed = s.seed := rfl
@[simp] theorem State.writeByte_dmem (s : State) (d : Reg) (b : Byte) : (s.writeByte d b).dmem = s.dmem := rfl
@[simp] theorem State.writeByte_host (s : State) (d : Reg) (b : Byte) : (s.writeByte d b).host = s.host := rfl

@[simp] theorem State.writeMatrix_p (s : State) (m : Matrix) : (s.writeMatrix m).p = s.p := rfl
@[simp] theorem State.writeMatrix_matrix (s : State) (m : Matrix) : (s.writeMatrix m).matrix = m := rfl
@[simp] theorem State.writeMatrix_chain (s : State) (m : Matrix) : (s.writeMatrix m).chain = s.chain := rfl
@[simp] theorem State.writeMatrix_fwd (s : State) (m : Matrix) : (s.writeMatrix m).fwd = s.fwd := rfl
@[simp] theorem State.writeMatrix_inv (s : State) (m : Matrix) : (s.writeMatrix m).inv = s.inv := rfl
@[simp] theorem State.writeMatrix_rk (s : State) (m : Matrix) : (s.writeMatrix m).rk = s.rk := rfl
@[simp] theorem State.writeMatrix_ctrl (s : State) (m : Matrix) : (s.writeMatrix m).ctrl = s.ctrl := rfl
@[simp] theorem State.writeMatrix_status (s : State) (m : Matrix) : (s.writeMatrix m).status = s.status := rfl
@[simp] theorem State.writeMatrix_seed (s : State) (m : Matrix) : (s.writeMatrix m).seed = s.seed := rfl
@[simp] theorem State.writeMatrix_dmem (s : State) (m : Matrix) : (s.writeMatrix m).dmem = s.dmem := rfl
@[simp] theorem State.writeMatrix_host (s : State) (m : Matrix) : (s.writeMatrix m).host = s.host := rfl

@[simp] theorem State.writeChain_p (s : State) (b : Block) : (s.writeChain b).p = s.p := rfl
@[simp] theorem State.writeChain_matrix (s : State) (b : Block) : (s.writeChain b).matrix = s.matrix := rfl
@[simp] theorem State.writeChain_chain (s : State) (b : Block) : (s.writeChain b).chain = b := rfl
@[simp] theorem State.writeChain_fwd (s : State) (b : Block) : (s.writeChain b).fwd = s.fwd := rfl
@[simp] theorem State.writeChain_inv (s : State) (b : Block) : (s.writeChain b).inv = s.inv := rfl
@[simp] theorem State.writeChain_rk (s : State) (b : Block) : (s.writeChain b).rk = s.rk := rfl
@[simp] theorem State.writeChain_ctrl (s : State) (b : Block) : (s.writeChain b).ctrl = s.ctrl := rfl
@[simp] theorem State.writeChain_status (s : State) (b : Block) : (s.writeChain b).status = s.status := rfl
@[simp] theorem State.writeChain_seed (s : State) (b : Block) : (s.writeChain b).seed = s.seed := rfl
@[simp] theorem State.writeChain_dmem (s : State) (b : Block) : (s.writeChain b).dmem = s.dmem := rfl
@[simp] theorem State.writeChain_host (s : State) (b : Block) : (s.writeChain b).host = s.host := rfl

@[simp] theorem State.writeBox_p (s : State) (f g : Table) : (s.writeBox f g).p = s.p := rfl
@[simp] theorem State.writeBox_matrix (s : State) (f g : Table) : (s.writeBox f g).matrix = s.matrix := rfl
@[simp] theorem State.writeBox_chain (s : State) (f g : Table) : (s.writeBox f g).chain = s.chain := rfl
@[simp] theorem State.writeBox_fwd (s : State) (f g : Table) : (s.writeBox f g).fwd = f := rfl
@[simp] theorem State.writeBox_inv (s : State) (f g : Table) : (s.writeBox f g).inv = g := rfl
@[simp] theorem State.writeBox_rk (s : State) (f g : Table) : (s.writeBox f g).rk = s.rk := rfl
@[simp] theorem State.writeBox_ctrl (s : State) (f g : Table) : (s.writeBox f g).ctrl = s.ctrl := rfl
@[simp] theorem State.writeBox_status (s : State) (f g : Table) : (s.writeBox f g).status = s.status := rfl
@[simp] theorem State.writeBox_seed (s : State) (f g : Table) : (s.writeBox f g).seed = s.seed := rfl
@[simp] theorem State.writeBox_dmem (s : State) (f g : Table) : (s.writeBox f g).dmem = s.dmem := rfl
@[simp] theorem State.writeBox_host (s : State) (f g : Table) : (s.writeBox f g).host = s.host := rfl

@[simp] theorem State.writeRoundKeys_p (s : State) (k : RoundKeys) : (s.writeRoundKeys k).p = s.p := rfl
@[simp] theorem State.writeRoundKeys_matrix (s : State) (k : RoundKeys) : (s.writeRoundKeys k).matrix = s.matrix := rfl
@[simp] theorem State.writeRoundKeys_chain (s : State) (k : RoundKeys) : (s.writeRoundKeys k).chain = s.chain := rfl
@[simp] theorem State.writeRoundKeys_fwd (s : State) (k : RoundKeys) : (s.writeRoundKeys k).fwd = s.fwd := rfl
@[simp] theorem State.writeRoundKeys_inv (s : State) (k : RoundKeys) : (s.writeRoundKeys k).inv = s.inv := rfl
@[simp] theorem State.writeRoundKeys_rk (s : State) (k : RoundKeys) : (s.writeRoundKeys k).rk = k := rfl
@[simp] theorem State.writeRoundKeys_ctrl (s : State) (k : RoundKeys) : (s.writeRoundKeys k).ctrl = s.ctrl := rfl
@[simp] theorem State.writeRoundKeys_status (s : State) (k : RoundKeys) : (s.writeRoundKeys k).status = s.status := rfl
@[simp] theorem State.writeRoundKeys_seed (s : State) (k : RoundKeys) : (s.writeRoundKeys k).seed = s.seed := rfl
@[simp] theorem State.writeRoundKeys_dmem (s : State) (k : RoundKeys) : (s.writeRoundKeys k).dmem = s.dmem := rfl
@[simp] theorem State.writeRoundKeys_host (s : State) (k : RoundKeys) : (s.writeRoundKeys k).host = s.host := rfl

@[simp] theorem State.writeCtrl_p (s : State) (c : Ctrl) : (s.writeCtrl c).p = s.p := rfl
@[simp] theorem State.writeCtrl_matrix (s : State) (c : Ctrl) : (s.writeCtrl c).matrix = s.matrix := rfl
@[simp] theorem State.writeCtrl_chain (s : State) (c : Ctrl) : (s.writeCtrl c).chain = s.chain := rfl
@[simp] theorem State.writeCtrl_fwd (s : State) (c : Ctrl) : (s.writeCtrl c).fwd = s.fwd := rfl
@[simp] theorem State.writeCtrl_inv (s : State) (c : Ctrl) : (s.writeCtrl c).inv = s.inv := rfl
@[simp] theorem State.writeCtrl_rk (s : State) (c : Ctrl) : (s.writeCtrl c).rk = s.rk := rfl
@[simp] theorem State.writeCtrl_ctrl (s : State) (c : Ctrl) : (s.writeCtrl c).ctrl = c := rfl
@[simp] theorem State.writeCtrl_status (s : State) (c : Ctrl) : (s.writeCtrl c).status = s.status := rfl
@[simp] theorem State.writeCtrl_seed (s : State) (c : Ctrl) : (s.writeCtrl c).seed = s.seed := rfl
@[simp] theorem State.writeCtrl_dmem (s : State) (c : Ctrl) : (s.writeCtrl c).dmem = s.dmem := rfl
@[simp] theorem State.writeCtrl_host (s : State) (c : Ctrl) : (s.writeCtrl c).host = s.host := rfl

@[simp] theorem State.writeStatus_p (s : State) (x : Status) : (s.writeStatus x).p = s.p := rfl
@[simp] theorem State.writeStatus_matrix (s : State) (x : Status) : (s.writeStatus x).matrix = s.matrix := rfl
@[simp] theorem State.writeStatus_chain (s : State) (x : Status) : (s.writeStatus x).chain = s.chain := rfl
@[simp] theorem State.writeStatus_fwd (s : State) (x : Status) : (s.writeStatus x).fwd = s.fwd := rfl
@[simp] theorem State.writeStatus_inv (s : State) (x : Status) : (s.writeStatus x).inv = s.inv := rfl
@[simp] theorem State.writeStatus_rk (s : State) (x : Status) : (s.writeStatus x).rk = s.rk := rfl
@[simp] theorem State.writeStatus_ctrl (s : State) (x : Status) : (s.writeStatus x).ctrl = s.ctrl := rfl
@[simp] theorem State.writeStatus_status (s : State) (x : Status) : (s.writeStatus x).status = x := rfl
@[simp] theorem State.writeStatus_seed (s : State) (x : Status) : (s.writeStatus x).seed = s.seed := rfl
@[simp] theorem State.writeStatus_dmem (s : State) (x : Status) : (s.writeStatus x).dmem = s.dmem := rfl
@[simp] theorem State.writeStatus_host (s : State) (x : Status) : (s.writeStatus x).host = s.host := rfl

@[simp] theorem State.writeSeed_p (s : State) (v : BitVec 32) : (s.writeSeed v).p = s.p := rfl
@[simp] theorem State.writeSeed_matrix (s : State) (v : BitVec 32) : (s.writeSeed v).matrix = s.matrix := rfl
@[simp] theorem State.writeSeed_chain (s : State) (v : BitVec 32) : (s.writeSeed v).chain = s.chain := rfl
@[simp] theorem State.writeSeed_fwd (s : State) (v : BitVec 32) : (s.writeSeed v).fwd = s.fwd := rfl
@[simp] theorem State.writeSeed_inv (s : State) (v : BitVec 32) : (s.writeSeed v).inv = s.inv := rfl
@[simp] theorem State.writeSeed_rk (s : State) (v : BitVec 32) : (s.writeSeed v).rk = s.rk := rfl
@[simp] theorem State.writeSeed_ctrl (s : State) (v : BitVec 32) : (s.writeSeed v).ctrl = s.ctrl := rfl
@[simp] theorem State.writeSeed_status (s : State) (v : BitVec 32) : (s.writeSeed v).status = s.status := rfl
@[simp] theorem State.writeSeed_seed (s : State) (v : BitVec 32) : (s.writeSeed v).seed = v := rfl
@[simp] theorem State.writeSeed_dmem (s : State) (v : BitVec 32) : (s.writeSeed v).dmem = s.dmem := rfl
@[simp] theorem State.writeSeed_host (s : State) (v : BitVec 32) : (s.writeSeed v).host = s.host := rfl

@[simp] theorem State.writeDmem_p (s : State) (m : Memory) : (s.writeDmem m).p = s.p := rfl
@[simp] theorem State.writeDmem_matrix (s : State) (m : Memory) : (s.writeDmem m).matrix = s.matrix := rfl
@[simp] theorem State.writeDmem_chain (s : State) (m : Memory) : (s.writeDmem m).chain = s.chain := rfl
@[simp] theorem State.writeDmem_fwd (s : State) (m : Memory) : (s.writeDmem m).fwd = s.fwd := rfl
@[simp] theorem State.writeDmem_inv (s : State) (m : Memory) : (s.writeDmem m).inv = s.inv := rfl
@[simp] theorem State.writeDmem_rk (s : State) (m : Memory) : (s.writeDmem m).rk = s.rk := rfl
@[simp] theorem State.writeDmem_ctrl (s : State) (m : Memory) : (s.writeDmem m).ctrl = s.ctrl := rfl
@[simp] theorem State.writeDmem_status (s : State) (m : Memory) : (s.writeDmem m).status = s.status := rfl
@[simp] theorem State.writeDmem_seed (s : State) (m : Memory) : (s.writeDmem m).seed = s.seed := rfl
@[simp] theorem State.writeDmem_dmem (s : State) (m : Memory) : (s.writeDmem m).dmem = m := rfl
@[simp] theorem State.writeDmem_host (s : State) (m : Memory) : (s.writeDmem m).host = s.host := rfl

@[simp] theorem State.writeHost_p (s : State) (h : List HostAction) : (s.writeHost h).p = s.p := rfl
@[simp] theorem State.writeHost_matrix (s : State) (h : List HostAction) : (s.writeHost h).matrix = s.matrix := rfl
@[simp] theorem State.writeHost_chain (s : State) (h : List HostAction) : (s.writeHost h).chain = s.chain := rfl
@[simp] theorem State.writeHost_fwd (s : State) (h : List HostAction) : (s.writeHost h).fwd = s.fwd := rfl
@[simp] theorem State.writeHost_inv (s : State) (h : List HostAction) : (s.writeHost h).inv = s.inv := rfl
@[simp] theorem State.writeHost_rk (s : State) (h : List HostAction) : (s.writeHost h).rk = s.rk := rfl
@[simp] theorem State.writeHost_ctrl (s : State) (h : List HostAction) : (s.writeHost h).ctrl = s.ctrl := rfl
@[simp] theorem State.writeHost_status (s : State) (h : List HostAction) : (s.writeHost h).status = s.status := rfl
@[simp] theorem State.writeHost_seed (s : State) (h : List HostAction) : (s.writeHost h).seed = s.seed := rfl
@[simp] theorem State.writeHost_dmem (s : State) (h : List HostAction) : (s.writeHost h).dmem = s.dmem := rfl
@[simp] theorem State.writeHost_host (s : State) (h : List HostAction) : (s.writeHost h).host = h := rfl

@[simp] theorem State.markBoxBuilt_p (s : State) : (s.markBoxBuilt).p = s.p := rfl
@[simp] theorem State.markBoxBuilt_matrix (s : State) : (s.markBoxBuilt).matrix = s.matrix := rfl
@[simp] theorem State.markBoxBuilt_chain (s : State) : (s.markBoxBuilt).chain = s.chain := rfl
@[simp] theorem State.markBoxBuilt_fwd (s : State) : (s.markBoxBuilt).fwd = s.fwd := rfl
@[simp] theorem State.markBoxBuilt_inv (s : State) : (s.markBoxBuilt).inv = s.inv := rfl
@[simp] theorem State.markBoxBuilt_rk (s : State) : (s.markBoxBuilt).rk = s.rk := rfl
@[simp] theorem State.markBoxBuilt_ctrl (s : State) : (s.markBoxBuilt).ctrl = s.ctrl := rfl
@[simp] theorem State.markBoxBuilt_status (s : State) : (s.markBoxBuilt).status = { s.status with sbv := true, kv := false } := rfl
@[simp] theorem State.markBoxBuilt_seed (s : State) : (s.markBoxBuilt).seed = s.seed := rfl
@[simp] theorem State.markBoxBuilt_dmem (s : State) : (s.markBoxBuilt).dmem = s.dmem := rfl
@[simp] theorem State.markBoxBuilt_host (s : State) : (s.markBoxBuilt).host = s.host := rfl

@[simp] theorem State.markKeyExpanded_p (s : State) : (s.markKeyExpanded).p = s.p := rfl
@[simp] theorem State.markKeyExpanded_matrix (s : State) : (s.markKeyExpanded).matrix = s.matrix := rfl
@[simp] theorem State.markKeyExpanded_chain (s : State) : (s.markKeyExpanded).chain = s.chain := rfl
@[simp] theorem State.markKeyExpanded_fwd (s : State) : (s.markKeyExpanded).fwd = s.fwd := rfl
@[simp] theorem State.markKeyExpanded_inv (s : State) : (s.markKeyExpanded).inv = s.inv := rfl
@[simp] theorem State.markKeyExpanded_rk (s : State) : (s.markKeyExpanded).rk = s.rk := rfl
@[simp] theorem State.markKeyExpanded_ctrl (s : State) : (s.markKeyExpanded).ctrl = s.ctrl := rfl
@[simp] theorem State.markKeyExpanded_status (s : State) : (s.markKeyExpanded).status = { s.status with kv := true } := rfl
@[simp] theorem State.markKeyExpanded_seed (s : State) : (s.markKeyExpanded).seed = s.seed := rfl
@[simp] theorem State.markKeyExpanded_dmem (s : State) : (s.markKeyExpanded).dmem = s.dmem := rfl
@[simp] theorem State.markKeyExpanded_host (s : State) : (s.markKeyExpanded).host = s.host := rfl

@[simp] theorem State.invalidateKey_p (s : State) : (s.invalidateKey).p = s.p := rfl
@[simp] theorem State.invalidateKey_matrix (s : State) : (s.invalidateKey).matrix = s.matrix := rfl
@[simp] theorem State.invalidateKey_chain (s : State) : (s.invalidateKey).chain = s.chain := rfl
@[simp] theorem State.invalidateKey_fwd (s : State) : (s.invalidateKey).fwd = s.fwd := rfl
@[simp] theorem State.invalidateKey_inv (s : State) : (s.invalidateKey).inv = s.inv := rfl
@[simp] theorem State.invalidateKey_rk (s : State) : (s.invalidateKey).rk = s.rk := rfl
@[simp] theorem State.invalidateKey_ctrl (s : State) : (s.invalidateKey).ctrl = s.ctrl := rfl
@[simp] theorem State.invalidateKey_status (s : State) : (s.invalidateKey).status = { s.status with kv := false } := rfl
@[simp] theorem State.invalidateKey_seed (s : State) : (s.invalidateKey).seed = s.seed := rfl
@[simp] theorem State.invalidateKey_dmem (s : State) : (s.invalidateKey).dmem = s.dmem := rfl
@[simp] theorem State.invalidateKey_host (s : State) : (s.invalidateKey).host = s.host := rfl

@[simp] theorem State.buildBox_p (s : State) (perm : Table) : (s.buildBox perm).p = s.p := rfl
@[simp] theorem State.buildBox_matrix (s : State) (perm : Table) : (s.buildBox perm).matrix = s.matrix := rfl
@[simp] theorem State.buildBox_chain (s : State) (perm : Table) : (s.buildBox perm).chain = s.chain := rfl
@[simp] theorem State.buildBox_fwd (s : State) (perm : Table) : (s.buildBox perm).fwd = buildForward perm := by
  simp only [State.buildBox, State.markBoxBuilt_fwd, State.writeBox_fwd]
@[simp] theorem State.buildBox_inv (s : State) (perm : Table) : (s.buildBox perm).inv = buildInverse (buildForward perm) s.inv := by
  simp only [State.buildBox, State.markBoxBuilt_inv, State.writeBox_inv]
@[simp] theorem State.buildBox_rk (s : State) (perm : Table) : (s.buildBox perm).rk = s.rk := rfl
@[simp] theorem State.buildBox_ctrl (s : State) (perm : Table) : (s.buildBox perm).ctrl = s.ctrl := rfl
@[simp] theorem State.buildBox_status (s : State) (perm : Table) : (s.buildBox perm).status = { s.status with sbv := true, kv := false } := rfl
@[simp] theorem State.buildBox_seed (s : State) (perm : Table) : (s.buildBox perm).seed = s.seed := rfl
@[simp] theorem State.buildBox_dmem (s : State) (perm : Table) : (s.buildBox perm).dmem = s.dmem := rfl
@[simp] theorem State.buildBox_host (s : State) (perm : Table) : (s.buildBox perm).host = s.host := rfl

@[simp] theorem State.writeChained_p (s : State) (y : Block × Block) : (s.writeChained y).p = s.p := rfl
@[simp] theorem State.writeChained_matrix (s : State) (y : Block × Block) : (s.writeChained y).matrix = blockToState y.1 := rfl
@[simp] theorem State.writeChained_chain (s : State) (y : Block × Block) : (s.writeChained y).chain = y.2 := rfl
@[simp] theorem State.writeChained_fwd (s : State) (y : Block × Block) : (s.writeChained y).fwd = s.fwd := rfl
@[simp] theorem State.writeChained_inv (s : State) (y : Block × Block) : (s.writeChained y).inv = s.inv := rfl
@[simp] theorem State.writeChained_rk (s : State) (y : Block × Block) : (s.writeChained y).rk = s.rk := rfl
@[simp] theorem State.writeChained_ctrl (s : State) (y : Block × Block) : (s.writeChained y).ctrl = s.ctrl := rfl
@[simp] theorem State.writeChained_status (s : State) (y : Block × Block) : (s.writeChained y).status = s.status := rfl
@[simp] theorem State.writeChained_seed (s : State) (y : Block × Block) : (s.writeChained y).seed = s.seed := rfl
@[simp] theorem State.writeChained_dmem (s : State) (y : Block × Block) : (s.writeChained y).dmem = s.dmem := rfl
@[simp] theorem State.writeChained_host (s : State) (y : Block × Block) : (s.writeChained y).host = s.host := rfl

@[simp] theorem State.withNextAction_p (s : State) (a : HostAction) : (s.withNextAction a).p = s.p := rfl
@[simp] theorem State.withNextAction_matrix (s : State) (a : HostAction) : (s.withNextAction a).matrix = s.matrix := rfl
@[simp] theorem State.withNextAction_chain (s : State) (a : HostAction) : (s.withNextAction a).chain = s.chain := rfl
@[simp] theorem State.withNextAction_fwd (s : State) (a : HostAction) : (s.withNextAction a).fwd = s.fwd := rfl
@[simp] theorem State.withNextAction_inv (s : State) (a : HostAction) : (s.withNextAction a).inv = s.inv := rfl
@[simp] theorem State.withNextAction_rk (s : State) (a : HostAction) : (s.withNextAction a).rk = s.rk := rfl
@[simp] theorem State.withNextAction_ctrl (s : State) (a : HostAction) : (s.withNextAction a).ctrl = s.ctrl := rfl
@[simp] theorem State.withNextAction_status (s : State) (a : HostAction) : (s.withNextAction a).status = s.status := rfl
@[simp] theorem State.withNextAction_seed (s : State) (a : HostAction) : (s.withNextAction a).seed = s.seed := rfl
@[simp] theorem State.withNextAction_dmem (s : State) (a : HostAction) : (s.withNextAction a).dmem = s.dmem := rfl
@[simp] theorem State.withNextAction_host (s : State) (a : HostAction) : (s.withNextAction a).host = a :: s.host := rfl

@[simp] theorem takeFault_p (f : FaultCode) (s : State) : (takeFault f s).p = s.p := rfl
@[simp] theorem takeFault_matrix (f : FaultCode) (s : State) : (takeFault f s).matrix = s.matrix := rfl
@[simp] theorem takeFault_chain (f : FaultCode) (s : State) : (takeFault f s).chain = s.chain := rfl
@[simp] theorem takeFault_fwd (f : FaultCode) (s : State) : (takeFault f s).fwd = s.fwd := rfl
@[simp] theorem takeFault_inv (f : FaultCode) (s : State) : (takeFault f s).inv = s.inv := rfl
@[simp] theorem takeFault_rk (f : FaultCode) (s : State) : (takeFault f s).rk = s.rk := rfl
@[simp] theorem takeFault_ctrl (f : FaultCode) (s : State) : (takeFault f s).ctrl = s.ctrl := rfl
@[simp] theorem takeFault_status (f : FaultCode) (s : State) : (takeFault f s).status = { s.status with err := true, cause := f.code } := rfl
@[simp] theorem takeFault_seed (f : FaultCode) (s : State) : (takeFault f s).seed = s.seed := rfl
@[simp] theorem takeFault_dmem (f : FaultCode) (s : State) : (takeFault f s).dmem = s.dmem := rfl
@[simp] theorem takeFault_host (f : FaultCode) (s : State) : (takeFault f s).host = s.host := rfl

@[simp] theorem applyReset_p (s : State) : (applyReset s).p = State.reset.p := rfl
@[simp] theorem applyReset_matrix (s : State) : (applyReset s).matrix = State.reset.matrix := rfl
@[simp] theorem applyReset_chain (s : State) : (applyReset s).chain = State.reset.chain := rfl
@[simp] theorem applyReset_fwd (s : State) : (applyReset s).fwd = s.fwd := rfl
@[simp] theorem applyReset_inv (s : State) : (applyReset s).inv = s.inv := rfl
@[simp] theorem applyReset_rk (s : State) : (applyReset s).rk = s.rk := rfl
@[simp] theorem applyReset_ctrl (s : State) : (applyReset s).ctrl = State.reset.ctrl := rfl
@[simp] theorem applyReset_status (s : State) : (applyReset s).status = State.reset.status := rfl
@[simp] theorem applyReset_seed (s : State) : (applyReset s).seed = State.reset.seed := rfl
@[simp] theorem applyReset_dmem (s : State) : (applyReset s).dmem = s.dmem := rfl
@[simp] theorem applyReset_host (s : State) : (applyReset s).host = s.host := rfl

@[simp] theorem hostWriteDmem_p (addr : Addr) (b : Byte) (s : State) : (hostWriteDmem addr b s).p = s.p := rfl
@[simp] theorem hostWriteDmem_matrix (addr : Addr) (b : Byte) (s : State) : (hostWriteDmem addr b s).matrix = s.matrix := rfl
@[simp] theorem hostWriteDmem_chain (addr : Addr) (b : Byte) (s : State) : (hostWriteDmem addr b s).chain = s.chain := rfl
@[simp] theorem hostWriteDmem_fwd (addr : Addr) (b : Byte) (s : State) : (hostWriteDmem addr b s).fwd = s.fwd := rfl
@[simp] theorem hostWriteDmem_inv (addr : Addr) (b : Byte) (s : State) : (hostWriteDmem addr b s).inv = s.inv := rfl
@[simp] theorem hostWriteDmem_rk (addr : Addr) (b : Byte) (s : State) : (hostWriteDmem addr b s).rk = s.rk := rfl
@[simp] theorem hostWriteDmem_ctrl (addr : Addr) (b : Byte) (s : State) : (hostWriteDmem addr b s).ctrl = s.ctrl := rfl
@[simp] theorem hostWriteDmem_status (addr : Addr) (b : Byte) (s : State) : (hostWriteDmem addr b s).status = s.status := rfl
@[simp] theorem hostWriteDmem_seed (addr : Addr) (b : Byte) (s : State) : (hostWriteDmem addr b s).seed = s.seed := rfl
@[simp] theorem hostWriteDmem_dmem (addr : Addr) (b : Byte) (s : State) : (hostWriteDmem addr b s).dmem = Memory.write s.dmem addr.toNat b := rfl
@[simp] theorem hostWriteDmem_host (addr : Addr) (b : Byte) (s : State) : (hostWriteDmem addr b s).host = s.host := rfl

@[simp] theorem State.withFetchWord_p (s : State) (nbits w : Nat) : (s.withFetchWord nbits w).p = s.p := rfl
@[simp] theorem State.withFetchWord_matrix (s : State) (nbits w : Nat) : (s.withFetchWord nbits w).matrix = s.matrix := rfl
@[simp] theorem State.withFetchWord_chain (s : State) (nbits w : Nat) : (s.withFetchWord nbits w).chain = s.chain := rfl
@[simp] theorem State.withFetchWord_fwd (s : State) (nbits w : Nat) : (s.withFetchWord nbits w).fwd = s.fwd := rfl
@[simp] theorem State.withFetchWord_inv (s : State) (nbits w : Nat) : (s.withFetchWord nbits w).inv = s.inv := rfl
@[simp] theorem State.withFetchWord_rk (s : State) (nbits w : Nat) : (s.withFetchWord nbits w).rk = s.rk := rfl
@[simp] theorem State.withFetchWord_ctrl (s : State) (nbits w : Nat) : (s.withFetchWord nbits w).ctrl = s.ctrl := rfl
@[simp] theorem State.withFetchWord_status (s : State) (nbits w : Nat) : (s.withFetchWord nbits w).status = s.status := rfl
@[simp] theorem State.withFetchWord_seed (s : State) (nbits w : Nat) : (s.withFetchWord nbits w).seed = s.seed := rfl
@[simp] theorem State.withFetchWord_dmem (s : State) (nbits w : Nat) : (s.withFetchWord nbits w).dmem = s.dmem := rfl
@[simp] theorem State.withFetchWord_host (s : State) (nbits w : Nat) : (s.withFetchWord nbits w).host = .command (BitVec.ofNat 32 (w % 2 ^ nbits)) :: s.host := rfl

end Sys2Proof.Machine
end

