-- ==== Sys2Proof/Laws/Ops.lean ====
section
/-! SUPPORT. What each shared operation can answer, said once (60_exceptions.md R231 to R233; 20_memory.md R51). -/

namespace Sys2Proof.Machine

/-- In the halted state a command does nothing (60_exceptions.md R232). -/
theorem runCommand_of_halted {s : State} (h : s.status.err = true) (r : Except FaultCode State) :
    runCommand s r = .next s := by simp [runCommand, h]

/-- A command whose operation raises nothing leaves that operation's state. -/
theorem runCommand_ok {s : State} (h : s.status.err = false) (t : State) : runCommand s (.ok t) = .next t := by
  simp [runCommand, h]

/-- A command whose operation raises a fault takes it, and nothing else happens. -/
theorem runCommand_error {s : State} (h : s.status.err = false) (f : FaultCode) :
    runCommand s (.error f) = .next (takeFault f s) := by simp [runCommand, h]

/-- Everything a command can do: nothing, its operation's effect, or the entry of one fault. -/
theorem runCommand_cases (s : State) (r : Except FaultCode State) :
    (s.status.err = true ∧ runCommand s r = .next s) ∨
    (s.status.err = false ∧ ∃ t, r = .ok t ∧ runCommand s r = .next t) ∨
    (s.status.err = false ∧ ∃ f, r = .error f ∧ runCommand s r = .next (takeFault f s)) := by
  cases h : s.status.err with
  | true => exact .inl ⟨rfl, runCommand_of_halted h r⟩
  | false =>
    cases r with
    | ok t => exact .inr (.inl ⟨rfl, t, rfl, runCommand_ok h t⟩)
    | error f => exact .inr (.inr ⟨rfl, f, rfl, runCommand_error h f⟩)

/-- Every command has the shape `runCommand`: for each command and state there is one operation that says what it
does. -/
theorem exists_operation (i : Instr) (s : State) : ∃ r : Except FaultCode State, exec i s = runCommand s r := by
  cases i <;>
    simp only [exec, execNop, execGfLi, execGfMov, execGfAdd, execGfDeg, execGfDiv, execGfRem, execGfMul, execGfXgcd,
      execGfInv, execGfCmp, execGfLdb, execGfStb, execSeedLo, execSeedHi, execSbBuild, execSbFwd, execSbInv,
      execSbAff, execSbBrev, execStLd, execStSt, execStGet, execStSet, execSubbytes, execIsubbytes,
      execShiftrows, execIshiftrows, execMixcols, execImixcols, execArk, execArkm, execCfg, execKexp,
      execRkSt, execEncb, execDecb, execChInit, execChEnc, execChDec, execChSt] <;>
    exact ⟨_, rfl⟩

/-- No fault has code 0. -/
theorem FaultCode.code_ne_zero (f : FaultCode) : f.code ≠ 0 := by cases f <;> decide

/-- The codes tell the faults apart. -/
theorem FaultCode.code_injective {f g : FaultCode} (h : f.code = g.code) : f = g := by
  cases f <;> cases g <;> first | rfl | exact absurd h (by decide)

theorem needBox_of_built {s : State} (h : s.status.sbv = true) : needBox s = .ok () := by simp [needBox, h]

theorem needBox_of_unbuilt {s : State} (h : s.status.sbv = false) : needBox s = .error .sboxNotBuilt := by
  simp [needBox, h]

theorem needKey_of_expanded {s : State} (h : s.status.kv = true) : needKey s = .ok () := by simp [needKey, h]

theorem needKey_of_unexpanded {s : State} (h : s.status.kv = false) : needKey s = .error .keyNotExpanded := by
  simp [needKey, h]

theorem byteOperand_of_byte {s : State} {a : Reg} (h : s.poly a ≤ 255) :
    byteOperand s a = .ok (BitVec.ofNat 8 (s.poly a)) := by simp [byteOperand, Nat.not_lt.mpr h]

theorem byteOperand_of_wide {s : State} {a : Reg} (h : 255 < s.poly a) :
    byteOperand s a = .error .operandRange := by simp [byteOperand, h]

theorem blockLength_of_le {len : Len} (h : len.val ≤ 16) : blockLength len = .ok len.val := by
  simp [blockLength, Nat.not_lt.mpr h]

theorem blockLength_of_long {len : Len} (h : 16 < len.val) : blockLength len = .error .blockTooLong := by
  simp [blockLength, h]

theorem memRead_of_le {s : State} {addr : Addr} {n : Nat} (h : addr.toNat + n ≤ 256) :
    memRead s addr n = .ok (Memory.readRun s.dmem addr.toNat n) := by simp [memRead, Nat.not_lt.mpr h]

theorem memRead_of_beyond {s : State} {addr : Addr} {n : Nat} (h : 256 < addr.toNat + n) :
    memRead s addr n = .error .dmemRange := by simp [memRead, h]

theorem memWrite_of_le {s : State} {addr : Addr} {v : List Byte} (h : addr.toNat + v.length ≤ 256) :
    memWrite s addr v = .ok (s.writeDmem (Memory.writeRun s.dmem addr.toNat v)) := by
  simp [memWrite, Nat.not_lt.mpr h]

theorem memWrite_of_beyond {s : State} {addr : Addr} {v : List Byte} (h : 256 < addr.toNat + v.length) :
    memWrite s addr v = .error .dmemRange := by simp [memWrite, h]

theorem blockOperand_of_le {s : State} {addr : Addr} {len : Len} (hl : len.val ≤ 16)
    (h : addr.toNat + len.val ≤ 256) :
    blockOperand s addr len = .ok (Memory.readRun s.dmem addr.toNat len.val) := by
  simp only [blockOperand, blockLength_of_le hl]; exact memRead_of_le h

theorem blockOperand_of_long {s : State} {addr : Addr} {len : Len} (hl : 16 < len.val) :
    blockOperand s addr len = .error .blockTooLong := by simp only [blockOperand, blockLength_of_long hl]; rfl

theorem blockOperand_of_beyond {s : State} {addr : Addr} {len : Len} (hl : len.val ≤ 16)
    (h : 256 < addr.toNat + len.val) : blockOperand s addr len = .error .dmemRange := by
  simp only [blockOperand, blockLength_of_le hl]; exact memRead_of_beyond h

theorem keyOperand_of_le {s : State} {addr : Addr} {len : Len} (hl : len.val * 8 = s.ctrl.ks.keyBits)
    (h : addr.toNat + len.val ≤ 256) :
    keyOperand s addr len = .ok (Memory.readRun s.dmem addr.toNat len.val) := by
  simp [keyOperand, hl, memRead_of_le h]

theorem keyOperand_of_length {s : State} {addr : Addr} {len : Len} (hl : len.val * 8 ≠ s.ctrl.ks.keyBits) :
    keyOperand s addr len = .error .keyLength := by simp [keyOperand, hl]

theorem keyOperand_of_beyond {s : State} {addr : Addr} {len : Len} (hl : len.val * 8 = s.ctrl.ks.keyBits)
    (h : 256 < addr.toNat + len.val) : keyOperand s addr len = .error .dmemRange := by
  simp [keyOperand, hl, memRead_of_beyond h]

theorem roundKeyOperand_of_le {s : State} {k : Nat} (h : k ≤ s.ctrl.ks.nr) :
    roundKeyOperand s k = .ok (roundKey s.rk k) := by simp [roundKeyOperand, Nat.not_lt.mpr h]

theorem roundKeyOperand_of_beyond {s : State} {k : Nat} (h : s.ctrl.ks.nr < k) :
    roundKeyOperand s k = .error .operandRange := by simp [roundKeyOperand, h]

/-- `Nr` is at most 14 (10_state.md R31). -/
theorem KeySize.nr_le (ks : KeySize) : ks.nr ≤ 14 := by cases ks <;> decide

end Sys2Proof.Machine
end

