-- ==== Sys2Proof/Tests/Slice0.lean ====
section
/-! SUPPORT. The model's own tests. Expected values are taken from the spec's worked examples and vectors
(95_test_vectors.md parts B to J, cited as "part X") or worked out by hand from a rule; none is the model's own answer.
At the end, for every statement with hypotheses, a state and operands that meet them. -/

namespace Sys2Proof.Tests

-- One theorem at a time: the evaluations below would otherwise run side by side, each with a thread of its own.
set_option Elab.async false

open Sys2Proof Sys2Proof.Machine Sys2Proof.Stated

/-! ### Helpers -/

/-- The bytes of FWD under PERM_ID (part D). -/
def fwdIdBytes : List Byte :=
  [0x63, 0x7A, 0xE2, 0xFB, 0xAE, 0xB7, 0x2F, 0x36, 0x88, 0x91, 0x09, 0x10, 0x45, 0x5C, 0xC4, 0xDD] ++
  [0x9B, 0x82, 0x1A, 0x03, 0x56, 0x4F, 0xD7, 0xCE, 0x70, 0x69, 0xF1, 0xE8, 0xBD, 0xA4, 0x3C, 0x25] ++
  [0x1F, 0x06, 0x9E, 0x87, 0xD2, 0xCB, 0x53, 0x4A, 0xF4, 0xED, 0x75, 0x6C, 0x39, 0x20, 0xB8, 0xA1] ++
  [0xE7, 0xFE, 0x66, 0x7F, 0x2A, 0x33, 0xAB, 0xB2, 0x0C, 0x15, 0x8D, 0x94, 0xC1, 0xD8, 0x40, 0x59] ++
  [0x5D, 0x44, 0xDC, 0xC5, 0x90, 0x89, 0x11, 0x08, 0xB6, 0xAF, 0x37, 0x2E, 0x7B, 0x62, 0xFA, 0xE3] ++
  [0xA5, 0xBC, 0x24, 0x3D, 0x68, 0x71, 0xE9, 0xF0, 0x4E, 0x57, 0xCF, 0xD6, 0x83, 0x9A, 0x02, 0x1B] ++
  [0x21, 0x38, 0xA0, 0xB9, 0xEC, 0xF5, 0x6D, 0x74, 0xCA, 0xD3, 0x4B, 0x52, 0x07, 0x1E, 0x86, 0x9F] ++
  [0xD9, 0xC0, 0x58, 0x41, 0x14, 0x0D, 0x95, 0x8C, 0x32, 0x2B, 0xB3, 0xAA, 0xFF, 0xE6, 0x7E, 0x67] ++
  [0x7C, 0x65, 0xFD, 0xE4, 0xB1, 0xA8, 0x30, 0x29, 0x97, 0x8E, 0x16, 0x0F, 0x5A, 0x43, 0xDB, 0xC2] ++
  [0x84, 0x9D, 0x05, 0x1C, 0x49, 0x50, 0xC8, 0xD1, 0x6F, 0x76, 0xEE, 0xF7, 0xA2, 0xBB, 0x23, 0x3A] ++
  [0x00, 0x19, 0x81, 0x98, 0xCD, 0xD4, 0x4C, 0x55, 0xEB, 0xF2, 0x6A, 0x73, 0x26, 0x3F, 0xA7, 0xBE] ++
  [0xF8, 0xE1, 0x79, 0x60, 0x35, 0x2C, 0xB4, 0xAD, 0x13, 0x0A, 0x92, 0x8B, 0xDE, 0xC7, 0x5F, 0x46] ++
  [0x42, 0x5B, 0xC3, 0xDA, 0x8F, 0x96, 0x0E, 0x17, 0xA9, 0xB0, 0x28, 0x31, 0x64, 0x7D, 0xE5, 0xFC] ++
  [0xBA, 0xA3, 0x3B, 0x22, 0x77, 0x6E, 0xF6, 0xEF, 0x51, 0x48, 0xD0, 0xC9, 0x9C, 0x85, 0x1D, 0x04] ++
  [0x3E, 0x27, 0xBF, 0xA6, 0xF3, 0xEA, 0x72, 0x6B, 0xD5, 0xCC, 0x54, 0x4D, 0x18, 0x01, 0x99, 0x80] ++
  [0xC6, 0xDF, 0x47, 0x5E, 0x0B, 0x12, 0x8A, 0x93, 0x2D, 0x34, 0xAC, 0xB5, 0xE0, 0xF9, 0x61, 0x78]

theorem length_fwdIdBytes : fwdIdBytes.length = 256 := by decide +kernel

/-- FWD under PERM_ID. -/
def fwdId : Table := ⟨fwdIdBytes.toArray, by rw [List.size_toArray, length_fwdIdBytes]⟩

/-- The bytes of INV under PERM_ID (part D). -/
def invIdBytes : List Byte :=
  [0xA0, 0xED, 0x5E, 0x13, 0xDF, 0x92, 0x21, 0x6C, 0x47, 0x0A, 0xB9, 0xF4, 0x38, 0x75, 0xC6, 0x8B] ++
  [0x0B, 0x46, 0xF5, 0xB8, 0x74, 0x39, 0x8A, 0xC7, 0xEC, 0xA1, 0x12, 0x5F, 0x93, 0xDE, 0x6D, 0x20] ++
  [0x2D, 0x60, 0xD3, 0x9E, 0x52, 0x1F, 0xAC, 0xE1, 0xCA, 0x87, 0x34, 0x79, 0xB5, 0xF8, 0x4B, 0x06] ++
  [0x86, 0xCB, 0x78, 0x35, 0xF9, 0xB4, 0x07, 0x4A, 0x61, 0x2C, 0x9F, 0xD2, 0x1E, 0x53, 0xE0, 0xAD] ++
  [0x3E, 0x73, 0xC0, 0x8D, 0x41, 0x0C, 0xBF, 0xF2, 0xD9, 0x94, 0x27, 0x6A, 0xA6, 0xEB, 0x58, 0x15] ++
  [0x95, 0xD8, 0x6B, 0x26, 0xEA, 0xA7, 0x14, 0x59, 0x72, 0x3F, 0x8C, 0xC1, 0x0D, 0x40, 0xF3, 0xBE] ++
  [0xB3, 0xFE, 0x4D, 0x00, 0xCC, 0x81, 0x32, 0x7F, 0x54, 0x19, 0xAA, 0xE7, 0x2B, 0x66, 0xD5, 0x98] ++
  [0x18, 0x55, 0xE6, 0xAB, 0x67, 0x2A, 0x99, 0xD4, 0xFF, 0xB2, 0x01, 0x4C, 0x80, 0xCD, 0x7E, 0x33] ++
  [0xEF, 0xA2, 0x11, 0x5C, 0x90, 0xDD, 0x6E, 0x23, 0x08, 0x45, 0xF6, 0xBB, 0x77, 0x3A, 0x89, 0xC4] ++
  [0x44, 0x09, 0xBA, 0xF7, 0x3B, 0x76, 0xC5, 0x88, 0xA3, 0xEE, 0x5D, 0x10, 0xDC, 0x91, 0x22, 0x6F] ++
  [0x62, 0x2F, 0x9C, 0xD1, 0x1D, 0x50, 0xE3, 0xAE, 0x85, 0xC8, 0x7B, 0x36, 0xFA, 0xB7, 0x04, 0x49] ++
  [0xC9, 0x84, 0x37, 0x7A, 0xB6, 0xFB, 0x48, 0x05, 0x2E, 0x63, 0xD0, 0x9D, 0x51, 0x1C, 0xAF, 0xE2] ++
  [0x71, 0x3C, 0x8F, 0xC2, 0x0E, 0x43, 0xF0, 0xBD, 0x96, 0xDB, 0x68, 0x25, 0xE9, 0xA4, 0x17, 0x5A] ++
  [0xDA, 0x97, 0x24, 0x69, 0xA5, 0xE8, 0x5B, 0x16, 0x3D, 0x70, 0xC3, 0x8E, 0x42, 0x0F, 0xBC, 0xF1] ++
  [0xFC, 0xB1, 0x02, 0x4F, 0x83, 0xCE, 0x7D, 0x30, 0x1B, 0x56, 0xE5, 0xA8, 0x64, 0x29, 0x9A, 0xD7] ++
  [0x57, 0x1A, 0xA9, 0xE4, 0x28, 0x65, 0xD6, 0x9B, 0xB0, 0xFD, 0x4E, 0x03, 0xCF, 0x82, 0x31, 0x7C]

theorem length_invIdBytes : invIdBytes.length = 256 := by decide +kernel

/-- INV under PERM_ID. -/
def invId : Table := ⟨invIdBytes.toArray, by rw [List.size_toArray, length_invIdBytes]⟩

/-- A block from its 16 bytes. -/
def block (l : List Byte) : Block := Vector.ofFn fun i => l.getD i.val 0

/-- The round keys of F1 (part F): KS = 0, 16 zero key bytes. -/
def rkF1 : RoundKeys := Vector.ofFn fun k => toState ((
  [[0x00, 0x00, 0x00, 0x00, 0x00, 0x00, 0x00, 0x00, 0x00, 0x00, 0x00, 0x00, 0x00, 0x00, 0x00, 0x00],
   [0x61, 0x63, 0x63, 0x63, 0x61, 0x63, 0x63, 0x63, 0x61, 0x63, 0x63, 0x63, 0x61, 0x63, 0x63, 0x63],
   [0xDC, 0xDA, 0xDA, 0x5B, 0xBD, 0xB9, 0xB9, 0x38, 0xDC, 0xDA, 0xDA, 0x5B, 0xBD, 0xB9, 0xB9, 0x38],
   [0x65, 0x69, 0x6F, 0xA4, 0xD8, 0xD0, 0xD6, 0x9C, 0x04, 0x0A, 0x0C, 0xC7, 0xB9, 0xB3, 0xB5, 0xFF],
   [0x7A, 0x2C, 0x78, 0x0A, 0xA2, 0xFC, 0xAE, 0x96, 0xA6, 0xF6, 0xA2, 0x51, 0x1F, 0x45, 0x17, 0xAE],
   [0x06, 0x77, 0x1E, 0x1D, 0xA4, 0x8B, 0xB0, 0x8B, 0x02, 0x7D, 0x12, 0xDA, 0x1D, 0x38, 0x05, 0x74],
   [0xD1, 0x04, 0xA1, 0x5B, 0x75, 0x8F, 0x11, 0xD0, 0x77, 0xF2, 0x03, 0x0A, 0x6A, 0xCA, 0x06, 0x7E],
   [0x44, 0xD3, 0xD0, 0xDD, 0x31, 0x5C, 0xC1, 0x0D, 0x46, 0xAE, 0xC2, 0x07, 0x2C, 0x64, 0xC4, 0x79],
   [0x0E, 0xDE, 0x41, 0xE9, 0x3F, 0x82, 0x80, 0xE4, 0x79, 0x2C, 0x42, 0xE3, 0x55, 0x48, 0x86, 0x9A],
   [0x48, 0x0C, 0x4A, 0x5E, 0x77, 0x8E, 0xCA, 0xBA, 0x0E, 0xA2, 0x88, 0x59, 0x5B, 0xEA, 0x0E, 0xC3],
   [0x1E, 0xDD, 0x0C, 0x75, 0x69, 0x53, 0xC6, 0xCF, 0x67, 0xF1, 0x4E, 0x96, 0x3C, 0x1B, 0x40, 0x55]] : List (List Byte)).getD k.val [])

/-- The state after reset with a register set. -/
def withReg (r : Reg) (v : PolyWord) : State := State.reset.writeP r v

/-- The state after reset with two registers set. -/
def withRegs (r : Reg) (v : PolyWord) (q : Reg) (u : PolyWord) : State := (State.reset.writeP r v).writeP q u

/-- S = 00 01 .. 0F. -/
def counting : State := State.reset.writeMatrix (toState ((List.range 16).map (BitVec.ofNat 8)))

/-- A state with the box of PERM_ID. -/
def boxed : State := { counting with fwd := fwdId, inv := invId, status := { sbv := true, kv := false, err := false, cause := 0 } }

/-- A state with the box of PERM_ID and the round keys of F1, S and R as given. -/
def keyed (mode : ChainMode) (s r : List Byte) : State :=
  { boxed with
    matrix := toState s, chain := block r, rk := rkF1, ctrl := { ks := .k128, mode := mode }
    status := { sbv := true, kv := true, err := false, cause := 0 } }

/-- What `f` reads of the state the command leaves. -/
def after {α : Type} (i : Instr) (s : State) (f : State → α) : Option α :=
  match exec i s with
  | .next t => some (f t)
  | .fault _ => none
  | .refused _ => none

/-- A register, as a number. -/
def reg (r : Reg) (s : State) : Nat := s.p[r].toNat

/-- STATUS, as the port shows it. -/
def statusWord (s : State) : Nat := (s.readPort 9).toNat

/-- S in flat order, as numbers. -/
def flatS (s : State) : List Nat := (fromState s.matrix).toList.map BitVec.toNat

/-- R, as numbers. -/
def chainR (s : State) : List Nat := s.chain.toList.map BitVec.toNat

/-- The written bytes at `a`, `a+1`, .. , as numbers; 256 for a byte never written. -/
def written (a n : Nat) (s : State) : List Nat :=
  (List.range n).map fun j => ((Memory.find s.dmem (a + j)).map BitVec.toNat).getD 256

/-- DMEM with the bytes of the list at `a`, `a+1`, .. -/
def withBytes (s : State) (a : Nat) (l : List Byte) : State := s.writeDmem (Memory.writeRun [] a l)

/-! ### Well-formedness -/

/-- 43_keyschedule.md R186: `imm16[15:5]` must be zero; `CFG 0x1F` is a command (which faults), `CFG 0x20` is none. -/
theorem test_wellFormed_refuses_cfg : ¬ (Instr.cfg 0x0020).WellFormed ∧ ¬ (Instr.cfg 0x8000).WellFormed := by decide

theorem test_wellFormed_accepts : (Instr.cfg 0x001F).WellFormed ∧ (Instr.gfXgcd 7 7 7).WellFormed := by decide

/-! ### Decoding: part B, and for the mnemonics it leaves out the words of the rules' examples or of R71 and R74 -/

theorem test_decode_nop_and_field :
    Decodes 0x00000000 .nop ∧ Decodes 0x1030011B (.gfLi 3 0x011B) ∧ Decodes 0x11100000 (.gfMov 1 0) ∧
    Decodes 0x12201000 (.gfAdd 2 0 1) ∧ Decodes 0x13100000 (.gfDeg 1 0) ∧ Decodes 0x14730000 (.gfDiv 7 3 0) ∧
    Decodes 0x15330000 (.gfRem 3 3 0) ∧ Decodes 0x16201000 (.gfMul 2 0 1) ∧ Decodes 0x17403000 (.gfXgcd 4 0 3) ∧
    Decodes 0x18100000 (.gfInv 1 0) ∧ Decodes 0x19103000 (.gfCmp 1 0 3) ∧ Decodes 0x1A5000FE (.gfLdb 5 0xFE) ∧
    Decodes 0x1B100010 (.gfStb 1 0x10) := by
  refine ⟨?_, ?_, ?_, ?_, ?_, ?_, ?_, ?_, ?_, ?_, ?_, ?_, ?_⟩ <;> rfl

theorem test_decode_box :
    Decodes 0x20000064 (.seedLo 0x0064) ∧ Decodes 0x2100BEEF (.seedHi 0xBEEF) ∧ Decodes 0x22000000 .sbBuild ∧
    Decodes 0x23100000 (.sbFwd 1 0) ∧ Decodes 0x24210000 (.sbInv 2 1) ∧ Decodes 0x25100000 (.sbAff 1 0) ∧
    Decodes 0x26100000 (.sbBrev 1 0) := by
  refine ⟨?_, ?_, ?_, ?_, ?_, ?_, ?_⟩ <;> rfl

theorem test_decode_state :
    Decodes 0x30001020 (.stLd 0x20 16) ∧ Decodes 0x31000550 (.stSt 0x50 5) ∧ Decodes 0x3270000F (.stGet 7 15) ∧
    Decodes 0x3330000D (.stSet 3 13) ∧ Decodes 0x34000000 .subbytes ∧ Decodes 0x35000000 .isubbytes ∧
    Decodes 0x36000000 .shiftrows ∧ Decodes 0x37000000 .ishiftrows ∧ Decodes 0x38000000 .mixcols ∧
    Decodes 0x39000000 .imixcols ∧ Decodes 0x3A00000A (.ark 10) ∧ Decodes 0x3B000210 (.arkm 0x10 2) := by
  refine ⟨?_, ?_, ?_, ?_, ?_, ?_, ?_, ?_, ?_, ?_, ?_, ?_⟩ <;> rfl

theorem test_decode_cipher :
    Decodes 0x4000000E (.cfg 0x000E) ∧ Decodes 0x41002000 (.kexp 0x00 32) ∧ Decodes 0x42000150 (.rkSt 0x50 1) ∧
    Decodes 0x50000000 .encb ∧ Decodes 0x51000000 .decb ∧ Decodes 0x58000000 .chInit ∧ Decodes 0x59000000 .chEnc ∧
    Decodes 0x5A000000 .chDec ∧ Decodes 0x5B000060 (.chSt 0x60) := by
  refine ⟨?_, ?_, ?_, ?_, ?_, ?_, ?_, ?_, ?_⟩ <;> rfl

/-- Part B, the words that must decode to `ILLEGAL_CMD`. -/
theorem test_decode_rejects :
    [0x00000001, 0x12800000, 0x12080000, 0x12008000, 0x12000001, 0x7F000000, 0xFF000000, 0x01000000, 0x40000020,
      0x5B000160, 0x3A000010, 0x30004000].map (fun n => decodeTableWord 32 n) = List.replicate 12 none := by decide

/-- Part B: STATUS becomes 0x64 from 0x00. -/
theorem test_illegal_command :
    (match step (State.reset.withFetchWord 32 0x7F000000) with
      | .next t => statusWord t
      | _ => 0) = 0x64 := by decide

/-! ### `NOP`, the field unit (part C) -/

theorem test_nop : after .nop (withReg 1 7) (fun t => (reg 1 t, statusWord t)) = some (7, 0) := by decide

theorem test_gfLi : after (.gfLi 3 0x011B) State.reset (reg 3) = some 0x011B := by decide

theorem test_gfMov : after (.gfMov 1 0) (withReg 0 0xBEEF) (reg 1) = some 0xBEEF := by decide

theorem test_gfAdd : after (.gfAdd 2 0 1) (withRegs 0 0x57 1 0x83) (reg 2) = some 0xD4 := by decide

theorem test_gfDeg : after (.gfDeg 1 0) (withReg 0 0xFFFF) (reg 1) = some 15 := by decide +kernel

theorem test_gfDeg_zero : after (.gfDeg 1 0) (withReg 1 9) (reg 1) = some 0 := by decide +kernel

/-- The raw quotient 0x4000 exceeds 255 and is reduced. -/
theorem test_gfDiv : after (.gfDiv 7 3 0) (withRegs 3 0x8000 0 0x0002) (reg 7) = some 0x009A := by decide +kernel

/-- Part C: STATUS 0x14, the destination unchanged. -/
theorem test_gfDiv_zero :
    after (.gfDiv 7 3 0) (withRegs 3 0x53 7 0x77) (fun t => (reg 7 t, statusWord t)) = some (0x77, 0x14) := by decide

theorem test_gfRem : after (.gfRem 3 3 0) (withRegs 3 0x2B79 0 0x011B) (reg 3) = some 0xC1 := by decide +kernel

theorem test_gfRem_zero : after (.gfRem 3 3 0) (withReg 3 0x53) statusWord = some 0x14 := by decide

theorem test_gfMul : after (.gfMul 2 0 1) (withRegs 0 0x57 1 0x83) (reg 2) = some 0xC1 := by decide +kernel

theorem test_gfMul_wide : after (.gfMul 2 0 1) (withRegs 0 0xFFFF 1 0xFFFF) (reg 2) = some 0x66 := by decide +kernel

/-- The destinations wrap around, and one of them is a source. -/
theorem test_gfXgcd_wraps :
    after (.gfXgcd 7 0 3) (withRegs 0 0x1234 3 0x0ABC) (fun t => (reg 7 t, reg 0 t, reg 1 t)) = some (4, 0x6E, 0x2E) := by
  decide +kernel

/-- Equal operands (R106 (e)). -/
theorem test_gfXgcd_equal :
    after (.gfXgcd 4 0 0) (withReg 0 5) (fun t => (reg 4 t, reg 5 t, reg 6 t)) = some (5, 1, 0) := by decide +kernel

theorem test_gfInv : after (.gfInv 1 0) (withReg 0 0x53) (reg 1) = some 0xCA := by decide +kernel

theorem test_gfInv_multiple : after (.gfInv 1 0) (withReg 0 0x236) (reg 1) = some 0 := by decide +kernel

theorem test_gfCmp_less : after (.gfCmp 1 0 3) (withRegs 0 0x53 3 0x011B) (reg 1) = some 2 := by decide

theorem test_gfCmp_greater : after (.gfCmp 1 0 3) (withRegs 0 0x100 3 0xFF) (reg 1) = some 1 := by decide

/-- The last byte of DMEM, extended by zeros. -/
theorem test_gfLdb : after (.gfLdb 5 0xFF) (withBytes (withReg 5 0xFFFF) 0xFF [0xCA]) (reg 5) = some 0x00CA := by decide

theorem test_gfStb : after (.gfStb 1 0x10) (withReg 1 0xCA) (written 0x0F 3) = some [256, 0xCA, 256] := by decide

theorem test_gfStb_wide :
    after (.gfStb 0 0x00) (withReg 0 0x0100) (fun t => (statusWord t, written 0 1 t)) = some (0xA4, [256]) := by decide

/-! ### The substitution box (part D) -/

theorem test_seedLo : after (.seedLo 0x0064) { State.reset with seed := 0xBEEF1234 } (fun t => t.seed.toNat) =
    some 0xBEEF0064 := by decide

theorem test_seedHi : after (.seedHi 0xBEEF) { State.reset with seed := 0x00000064 } (fun t => t.seed.toNat) =
    some 0xBEEF0064 := by decide

/-- STATUS.SBV = 1, KV = 0. -/
theorem test_sbBuild : after .sbBuild (keyed .ecb [] []) statusWord = some 0x01 := by decide +kernel

theorem test_sbFwd : after (.sbFwd 2 1) { boxed with p := (withReg 1 0x53).p } (reg 2) = some 0x3D := by decide +kernel

/-- `SBOX_NOT_BUILT` before `OPERAND_RANGE` (60_exceptions.md R234). -/
theorem test_sbFwd_unbuilt : after (.sbFwd 2 1) (withReg 1 0x100) statusWord = some 0x74 := by decide

theorem test_sbInv : after (.sbInv 2 1) { boxed with p := (withReg 1 0x53).p } (reg 2) = some 0x26 := by decide +kernel

theorem test_sbInv_wide : after (.sbInv 2 1) { boxed with p := (withReg 1 0x100).p } statusWord = some 0xA5 := by
  decide +kernel

theorem test_sbAff : after (.sbAff 1 0) (withReg 0 0x53) (reg 1) = some 0x3D := by decide +kernel

theorem test_sbAff_wide : after (.sbAff 1 0) (withReg 0 0x100) statusWord = some 0xA4 := by decide

theorem test_sbBrev : after (.sbBrev 1 0) (withReg 0 0x53) (reg 1) = some 0xCA := by decide +kernel

/-! ### The state matrix and the rounds (part E) -/

/-- Part A, A7: the state built from FF 00 is FF and 15 zero bytes. -/
theorem test_stLd : after (.stLd 0x20 2) (withBytes counting 0x20 [0xFF, 0x00]) flatS =
    some (0xFF :: List.replicate 15 0) := by decide +kernel

theorem test_stLd_long : after (.stLd 0xF8 17) counting statusWord = some 0x24 := by decide

theorem test_stSt : after (.stSt 0x50 5) counting (written 0x50 6) = some [0, 1, 2, 3, 4, 256] := by decide +kernel

theorem test_stSt_beyond : after (.stSt 0xFC 5) counting statusWord = some 0x94 := by decide

theorem test_stGet : after (.stGet 0 6) counting (reg 0) = some 6 := by decide +kernel

/-- Flat byte 13 is row 1, column 3. -/
theorem test_stSet : after (.stSet 3 13) { counting with p := (withReg 3 0xAB).p }
    (fun t => ((t.matrix[1])[3].toNat, (t.matrix[3])[1].toNat)) = some (0xAB, 7) := by decide +kernel

theorem test_subbytes : after .subbytes boxed flatS =
    some [0x63, 0x7A, 0xE2, 0xFB, 0xAE, 0xB7, 0x2F, 0x36, 0x88, 0x91, 0x09, 0x10, 0x45, 0x5C, 0xC4, 0xDD] := by
  decide +kernel

theorem test_isubbytes : after .isubbytes boxed flatS =
    some [0xA0, 0xED, 0x5E, 0x13, 0xDF, 0x92, 0x21, 0x6C, 0x47, 0x0A, 0xB9, 0xF4, 0x38, 0x75, 0xC6, 0x8B] := by
  decide +kernel

theorem test_isubbytes_unbuilt : after .isubbytes counting statusWord = some 0x74 := by decide

theorem test_shiftrows : after .shiftrows counting flatS =
    some [0x00, 0x05, 0x0A, 0x0F, 0x04, 0x09, 0x0E, 0x03, 0x08, 0x0D, 0x02, 0x07, 0x0C, 0x01, 0x06, 0x0B] := by
  decide +kernel

theorem test_ishiftrows : after .ishiftrows counting flatS =
    some [0x00, 0x0D, 0x0A, 0x07, 0x04, 0x01, 0x0E, 0x0B, 0x08, 0x05, 0x02, 0x0F, 0x0C, 0x09, 0x06, 0x03] := by
  decide +kernel

/-- The columns of MIX_F, top to bottom, as part E lists them, and the first and last column of MIX_I. -/
theorem test_mixMatrix :
    (fromState (mixMatrix .forward)).toList.map BitVec.toNat = [2, 1, 1, 3, 3, 2, 1, 1, 1, 3, 2, 1, 1, 1, 3, 2] ∧
    ([0, 1, 2, 3].map fun i => (Matrix.entry (mixMatrix .inverse) i 0).toNat) = [14, 9, 13, 11] ∧
    ([0, 1, 2, 3].map fun i => (Matrix.entry (mixMatrix .inverse) i 3).toNat) = [9, 13, 11, 14] := by decide +kernel

theorem test_mixcols : after .mixcols counting flatS =
    some [0x02, 0x07, 0x00, 0x05, 0x06, 0x03, 0x04, 0x01, 0x0A, 0x0F, 0x08, 0x0D, 0x0E, 0x0B, 0x0C, 0x09] := by
  decide +kernel

theorem test_imixcols : after .imixcols counting flatS =
    some [0x0A, 0x0F, 0x08, 0x0D, 0x0E, 0x0B, 0x0C, 0x09, 0x02, 0x07, 0x00, 0x05, 0x06, 0x03, 0x04, 0x01] := by
  decide +kernel

/-- 42_state_rounds.md R167's example. -/
theorem test_ark : after (.ark 1) (keyed .ecb [] []) flatS =
    some [0x61, 0x63, 0x63, 0x63, 0x61, 0x63, 0x63, 0x63, 0x61, 0x63, 0x63, 0x63, 0x61, 0x63, 0x63, 0x63] := by
  decide +kernel

theorem test_ark_beyond : after (.ark 11) (keyed .ecb [] []) statusWord = some 0xA7 := by decide +kernel

theorem test_arkm : after (.arkm 0x10 2) (withBytes counting 0x10 [0xFF, 0x0F]) flatS =
    some [0xFF, 0x0E, 2, 3, 4, 5, 6, 7, 8, 9, 10, 11, 12, 13, 14, 15] := by decide +kernel

/-! ### The key (part F) -/

theorem test_cfg : after (.cfg 0x000E) (keyed .ecb [] []) (fun t => (t.ctrl, statusWord t)) =
    some ({ ks := .k256, mode := .cfb }, 0x01) := by decide +kernel

/-- `CFG 0x13` takes `KEY_PARAM`, the first check. -/
theorem test_cfg_keyParam : after (.cfg 0x0013) State.reset statusWord = some 0x44 := by decide

/-- F2: round key 1 of the key 00 01 .. 0F, and round key 0, and STATUS. -/
theorem test_kexp : after (.kexp 0 16) (withBytes boxed 0 ((List.range 16).map (BitVec.ofNat 8)))
    (fun t => ((fromState t.rk[1]).toList.map BitVec.toNat, statusWord t)) =
    some ([0x74, 0xEF, 0xF5, 0x6C, 0x70, 0xEA, 0xF3, 0x6B, 0x78, 0xE3, 0xF9, 0x60, 0x74, 0xEE, 0xF7, 0x6F], 0x03) := by
  decide +kernel

theorem test_kexp_length : after (.kexp 0 24) boxed statusWord = some 0x35 := by decide +kernel

theorem test_rkSt : after (.rkSt 0x50 10) (keyed .ecb [] []) (written 0x50 17) =
    some [0x1E, 0xDD, 0x0C, 0x75, 0x69, 0x53, 0xC6, 0xCF, 0x67, 0xF1, 0x4E, 0x96, 0x3C, 0x1B, 0x40, 0x55, 256] := by
  decide +kernel

theorem test_rkSt_beyond : after (.rkSt 0x50 11) (keyed .ecb [] []) statusWord = some 0xA7 := by decide +kernel

/-! ### The cipher core and the chaining (parts G and H) -/

/-- G1: the block of A6. -/
theorem test_encb : after .encb (keyed .cbc [0x01, 0x02, 0x04, 0x08, 0x10, 0x20, 0x40, 0x80, 0x80, 0x40, 0x20, 0x10, 0x08, 0x04, 0x02, 0x01] []) flatS =
    some [0xA0, 0xA7, 0x9C, 0x4F, 0xDF, 0x52, 0x68, 0x03, 0xF0, 0x55, 0x18, 0xAC, 0x7D, 0x02, 0xD3, 0x8B] := by
  decide +kernel

theorem test_decb : after .decb (keyed .ecb [0xA0, 0xA7, 0x9C, 0x4F, 0xDF, 0x52, 0x68, 0x03, 0xF0, 0x55, 0x18, 0xAC, 0x7D, 0x02, 0xD3, 0x8B] []) flatS =
    some [0x01, 0x02, 0x04, 0x08, 0x10, 0x20, 0x40, 0x80, 0x80, 0x40, 0x20, 0x10, 0x08, 0x04, 0x02, 0x01] := by
  decide +kernel

theorem test_encb_unexpanded : after .encb boxed statusWord = some 0x85 := by decide +kernel

theorem test_chInit : after .chInit (keyed .ecb [] [1, 2, 3]) chainR = some (List.replicate 16 0) := by decide +kernel

/-- CBC, block 1, the chain register holding C0. -/
theorem test_chEnc_cbc :
    after .chEnc (keyed .cbc [0x20, 0x21, 0x22, 0x23, 0x24, 0x25, 0x26, 0x27, 0x28, 0x29, 0x2A, 0x2B, 0x2C, 0x2D, 0x2E, 0x2F]
      [0xA6, 0x38, 0x56, 0xB9, 0xC8, 0xD6, 0xDA, 0xAF, 0x87, 0x96, 0xAC, 0x22, 0xA8, 0xE5, 0x87, 0x4B]) (fun t => (flatS t, chainR t)) =
    some ([0x65, 0xED, 0x3F, 0x68, 0x0F, 0x33, 0x12, 0x9A, 0xD7, 0x38, 0xFC, 0xE1, 0x2C, 0xB0, 0x38, 0x65],
      [0x65, 0xED, 0x3F, 0x68, 0x0F, 0x33, 0x12, 0x9A, 0xD7, 0x38, 0xFC, 0xE1, 0x2C, 0xB0, 0x38, 0x65]) := by
  decide +kernel

/-- CFB, block 1, back: the chain register takes the ciphertext block. -/
theorem test_chDec_cfb :
    after .chDec (keyed .cfb [0x05, 0xDD, 0x11, 0x16, 0x2F, 0x43, 0x7C, 0xA4, 0x64, 0xDB, 0x01, 0x4C, 0xDF, 0x13, 0x85, 0x88]
      [0xDF, 0xA7, 0x85, 0x8C, 0x8C, 0x74, 0x34, 0xA7, 0x68, 0x9F, 0xE9, 0x81, 0x7A, 0xD1, 0xFF, 0xD5]) (fun t => (flatS t, chainR t)) =
    some ([0x20, 0x21, 0x22, 0x23, 0x24, 0x25, 0x26, 0x27, 0x28, 0x29, 0x2A, 0x2B, 0x2C, 0x2D, 0x2E, 0x2F],
      [0x05, 0xDD, 0x11, 0x16, 0x2F, 0x43, 0x7C, 0xA4, 0x64, 0xDB, 0x01, 0x4C, 0xDF, 0x13, 0x85, 0x88]) := by
  decide +kernel

theorem test_chSt : after (.chSt 0x60) (keyed .ecb [] [9, 8, 7]) (written 0x60 4) = some [9, 8, 7, 0] := by decide +kernel

theorem test_chSt_beyond : after (.chSt 0xF1) State.reset statusWord = some 0x94 := by decide

/-! ### States and operands that meet the hypotheses of the statements, at the ends of their ranges -/

/-- A table every byte of which is its own image. -/
def sameBytes : Table := Vector.ofFn fun i => BitVec.ofNat 8 i.val

theorem lookup_sameBytes (b : Byte) : Table.lookup sameBytes b = b := by simp [Table.lookup, sameBytes]

theorem boxesInverse_sameBytes : BoxesInverse sameBytes sameBytes := by simp [BoxesInverse, lookup_sameBytes]

/-- A state with a box and a key, both of the simplest kind, and a key size. -/
def keyedPlain (ks : KeySize) : State :=
  { State.reset with
    fwd := sameBytes, inv := sameBytes, ctrl := { ks := ks, mode := .ecb }
    status := { sbv := true, kv := true, err := false, cause := 0 } }

/-- The halted state after `DIV_ZERO`. -/
def haltedState : State := takeFault .divZero State.reset

theorem witness_DecodeOfEncodeGivesTheCommand : (Instr.cfg 0x1F).WellFormed ∧ (Instr.gfXgcd 7 7 7).WellFormed := by decide

theorem witness_EncodeOfDecodeGivesTheWord : decodeWord 0x5B0000FF = .ok (.chSt 0xFF) := rfl

theorem witness_OpcodeRowsAreDisjoint :
    ∃ r ∈ commandRows, 0x4000001F#32 &&& r.mask = r.bits ∧ r.mnemonic = "CFG" :=
  ⟨commandRows[32], List.getElem_mem _, rfl, rfl⟩

theorem witness_WordsOutsideTheOpcodeMapAreIllegal :
    State.reset.Running ∧ (∀ r ∈ commandRows, 0xFF000000#32 &&& r.mask ≠ r.bits) ∧
    (∃ r ∈ commandRows, 0x16701000#32 &&& r.mask = r.bits ∧ r.mnemonic = "GF.MUL") ∧
    (∃ r ∈ commandRows, 0x4000001F#32 &&& r.mask = r.bits ∧ r.mnemonic = "CFG") ∧
    ∃ r ∈ commandRows, 0x5B0000FF#32 &&& r.mask = r.bits ∧ r.mnemonic = "CH.ST" :=
  ⟨rfl, by decide, ⟨commandRows[7], List.getElem_mem _, rfl, rfl⟩, ⟨commandRows[32], List.getElem_mem _, rfl, rfl⟩,
    ⟨commandRows[40], List.getElem_mem _, rfl, rfl⟩⟩

theorem witness_StepRunsTheDecodedCommand :
    ({ State.reset with host := [.command 0x50000000, .reset] }).host = .command 0x50000000 :: [.reset] ∧
    decodeWord 0x50000000 = .ok .encb ∧ decodeTableWord 32 0x50000000 = some .encb ∧ State.reset.host = [] :=
  ⟨rfl, rfl, rfl, rfl⟩

theorem witness_ResetInputLeavesTheHaltedState :
    ({ haltedState with host := [.reset] }).host = .reset :: [] ∧ haltedState.status.err = true := ⟨rfl, rfl⟩

theorem witness_RegisterPortShowsTheRegisters :
    11 ≤ (11 : Fin 16).val ∧ 11 ≤ (15 : Fin 16).val ∧
    ({ State.reset with host := [.readPort 15] }).host = .readPort 15 :: [] := ⟨by decide, by decide, rfl⟩

theorem witness_HostReadsAndWritesDmem :
    ({ haltedState with host := [.writeDmem 0xFF 1] }).host = .writeDmem 0xFF 1 :: [] ∧ (0 : Addr) ≠ 0xFF ∧
    ({ haltedState with host := [.readDmem 0] }).host = .readDmem 0 :: [] := ⟨rfl, by decide, rfl⟩

theorem witness_HaltedUnitIgnoresEveryCommandWord :
    haltedState.status.err = true ∧
    ({ haltedState with host := [.command 0xFFFFFFFF] }).host = .command 0xFFFFFFFF :: [] := ⟨rfl, rfl⟩

theorem witness_EveryCommandCompletesOrTakesItsFault :
    State.reset.Running ∧ faultOf .encb State.reset = some 8 ∧ faultOf (.stLd 0xF0 16) State.reset = none := by decide

theorem witness_OnlyTheNamedCommandsWriteEachRegister :
    exec .shiftrows State.reset = .next (State.reset.writeMatrix (shiftRows .forward State.reset.matrix)) := rfl

theorem witness_CommandsWriteOnlyTheBytesTheyName :
    exec .nop State.reset = .next State.reset ∧ (¬ MayWrite (.stSt 0xF0 16) 0xEF) ∧ (¬ MayWrite (.stSt 0xF0 16) 0x100) ∧
    ¬ MayWrite (.stSt 0xF0 0) 0xF0 := ⟨rfl, by simp [MayWrite], by simp [MayWrite], by simp [MayWrite]⟩

/-- A halted state that has the invariant, and a step of it. -/
theorem witness_EveryStepKeepsTheInvariant :
    haltedState.Inv ∧ step haltedState = .next haltedState :=
  ⟨{ keyNeedsBox := by decide, boxesInverse := fun h => absurd h (by decide),
     keyExpanded := fun h => absurd h (by decide), causeZero := by decide, causeKnown := by decide, dmemCanonical := by decide }, rfl⟩

/-- Two states that differ, and differ in nothing readable. -/
theorem witness_UnreadableContentsAreNeverObserved :
    SameReadable State.reset { State.reset with fwd := sameBytes } ∧ State.reset.fwd ≠ sameBytes ∧
    (State.reset.status.kv = true → State.reset.status.sbv = true) ∧ step State.reset = .next State.reset ∧
    step { State.reset with fwd := sameBytes } = .next { State.reset with fwd := sameBytes } := by
  refine ⟨⟨rfl, by decide, by decide⟩, fun h => ?_, by decide, rfl, rfl⟩
  have h1 := congrArg (fun t => Table.lookup t 1) h
  rw [lookup_sameBytes] at h1
  exact absurd h1 (by decide)

theorem witness_NopChangesNothing :
    State.reset.Running ∧ (1 : CommandWord).extractLsb' 24 8 = 0 ∧ (1 : CommandWord) ≠ 0 := by decide

/-- `State.Running` at reset, the only hypothesis of the statements on `GF.LI`, `GF.MOV`, `GF.ADD`, `GF.MUL`, `GF.XGCD`,
`SEED.LO`, `SEED.HI`, `SB.BUILD`, `ST.GET`, the row and column commands and `CH.INIT`. -/
theorem witness_Running : State.reset.Running := rfl

theorem witness_DegreeIsTheHighestSetBit : State.reset.Running ∧ 0 < 1 ∧ 0 < 0xFFFF := by decide

theorem witness_LongDivisionIsTheUniquePair :
    (1 : Nat) ≠ 0 ∧ 0x53 = clmul 0 0x11B ^^^ 0x53 ∧ (0x53 = 0 ∨ polyDeg 0x53 < polyDeg 0x11B) := by decide +kernel

theorem witness_QuotientAndRemainderCommands :
    State.reset.Running ∧ State.reset.p[(0 : Reg)] = 0 ∧ (withReg 0 1).Running ∧ (withReg 0 1).p[(0 : Reg)] ≠ 0 := by decide

theorem witness_ProductIsShiftAddThenReduce : 0xFFFF < 2 ^ 16 := by decide

theorem witness_FieldUnitIsPolynomialArithmeticOverGF2 :
    (∃ φ : Nat → Polynomial (ZMod 2), ∀ n i : Nat, (φ n).coeff i = if n.testBit i then 1 else 0) ∧ (1 : Nat) ≠ 0 := by
  refine ⟨⟨fun n => ∑ j ∈ Finset.range (n + 1), if n.testBit j then Polynomial.X ^ j else 0, fun n i => ?_⟩, by decide⟩
  have hbig : n < i → n.testBit i = false := fun h => Nat.testBit_lt_two_pow (h.trans Nat.lt_two_pow_self)
  rw [Polynomial.finsetSum_coeff, Finset.sum_eq_single i]
  · split <;> simp
  · intro j _ hj; split
    · rw [Polynomial.coeff_X_pow, if_neg (Ne.symm hj)]
    · simp
  · intro h
    have : n < i := by simpa [Nat.lt_succ_iff] using h
    simp [hbig this]

theorem witness_ExtendedGcdIsAGcdWithBezoutCoefficients :
    (∃ k, 6 = clmul k 3) ∧ (∃ k, 3 = clmul k 3) ∧ 0 < 1 := ⟨⟨2, by decide +kernel⟩, ⟨1, by decide +kernel⟩, by decide⟩

theorem witness_MultiplicativeInverse :
    State.reset.Running ∧ polyRem 0x236 0x11B = 0 ∧ polyRem 0x100 0x11B ≠ 0 := by decide +kernel

theorem witness_CompareCommand :
    State.reset.Running ∧ 0x53 = 0x53 ∧ 0x100 > 0xFF ∧ 0x53 < 0x11B := by decide

theorem witness_LoadAndStoreByte :
    (withReg 0 0x100).Running ∧ 255 < (withReg 0 0x100).p[(0 : Reg)].toNat ∧ (withReg 0 0xFF).Running ∧
    (withReg 0 0xFF).p[(0 : Reg)].toNat ≤ 255 := by decide

theorem witness_FieldLaws : 0 < 1 ∧ 1 ≤ 255 ∧ 0 < 255 ∧ 255 ≤ 255 := by decide

theorem witness_FieldResultsFitTheRegisters : 0xFFFF < 2 ^ 16 ∧ 1 < 2 ^ 16 ∧ 1 ≠ 0 := by decide

theorem witness_DrawsGiveExactlyThePermutations :
    (∀ j k : Byte, Table.lookup sameBytes j = Table.lookup sameBytes k → j = k) ∧
    ∃ j : Byte, Table.lookup (permutationOf fun _ _ => 0) j = 0 :=
  ⟨fun j k h => by rwa [lookup_sameBytes, lookup_sameBytes] at h, ⟨0, by decide +kernel⟩⟩

theorem witness_BoxLookups :
    State.reset.status.sbv = false ∧ (keyedPlain .k128).Running ∧ (keyedPlain .k128).status.sbv = true ∧
    255 < ((keyedPlain .k128).writeP 0 0x100).p[(0 : Reg)].toNat ∧
    ((keyedPlain .k128).writeP 0 0xFF).p[(0 : Reg)].toNat < 256 := by decide

theorem witness_AffineAndBitReversal :
    255 < (withReg 0 0x100).p[(0 : Reg)].toNat ∧ (withReg 0 0xFF).p[(0 : Reg)].toNat = (0xFF : Byte).toNat := by decide

/-- The statements on `ST.LD`, `ST.ST` and `ARKM` have the same cases: 17 bytes; 16 bytes at 241; 16 bytes at 240; no
bytes. -/
theorem witness_LoadState_StoreState_AddBlockFromDmem :
    State.reset.Running ∧ 16 < (17 : Len).val ∧ ((16 : Len).val ≤ 16 ∧ 256 < (241 : Addr).toNat + (16 : Len).val) ∧
    ((16 : Len).val ≤ 16 ∧ (240 : Addr).toNat + (16 : Len).val ≤ 256) ∧
    (0 : Len).val ≤ 16 ∧ (255 : Addr).toNat + (0 : Len).val ≤ 256 := by decide

theorem witness_GetAndSetStateByte :
    (withReg 0 0x100).Running ∧ 255 < (withReg 0 0x100).p[(0 : Reg)].toNat ∧
    (withReg 0 0xFF).p[(0 : Reg)].toNat ≤ 255 ∧ (15 : Fin 16) ≠ 0 := by decide

theorem witness_SubstituteBytes :
    State.reset.Running ∧ State.reset.status.sbv = false ∧ (keyedPlain .k128).Running ∧
    (keyedPlain .k128).status.sbv = true := by decide

theorem witness_AddRoundKeyFromTheFile :
    State.reset.status.kv = false ∧ (keyedPlain .k128).Running ∧ (keyedPlain .k128).status.kv = true ∧
    (keyedPlain .k128).ctrl.ks.nr < (11 : Fin 16).val ∧ (10 : Fin 16).val ≤ (keyedPlain .k128).ctrl.ks.nr ∧
    (14 : Fin 16).val < 15 ∧ (14 : Fin 16).val ≤ (keyedPlain .k256).ctrl.ks.nr := by decide

theorem witness_RoundTransformationsUndoEachOther : BoxesInverse sameBytes sameBytes := boxesInverse_sameBytes

theorem witness_ConfigureCommand :
    State.reset.Running ∧ (0x1F : BitVec 16).toNat < 32 ∧ (32 ≤ 32 ∧ 32 < 2 ^ 16) ∧ 0xFFFF < 2 ^ 16 ∧
    ((0x13 : BitVec 16).toNat < 32 ∧ (0x10 : BitVec 16).toNat < 32 ∧ (0x0E : BitVec 16).toNat < 32) ∧
    (0x13 : BitVec 16).toNat % 4 = 3 ∧ ((0x10 : BitVec 16).toNat % 4 ≠ 3 ∧ 3 < (0x10 : BitVec 16).toNat / 4 % 8) ∧
    ((0x0E : BitVec 16).toNat % 4 = (2 : Fin 3).val ∧ (0x0E : BitVec 16).toNat / 4 % 8 = (3 : Fin 4).val) := by decide

theorem witness_KeyScheduleRecurrence :
    (List.replicate 16 (0 : Byte)).length * 8 = KeySize.k128.keyBits ∧ 3 < KeySize.k128.nk ∧
    (KeySize.k128.nk ≤ 4 ∧ 4 < 4 * (KeySize.k128.nr + 1)) ∧ KeySize.k128.nk ≤ 43 ∧ 43 < 4 * (KeySize.k128.nr + 1) := by
  decide

theorem witness_ExpandKeyCommand :
    State.reset.status.sbv = false ∧ (keyedPlain .k256).Running ∧ (keyedPlain .k256).status.sbv = true ∧
    (24 : Len).val * 8 ≠ (keyedPlain .k256).ctrl.ks.keyBits ∧ (32 : Len).val * 8 = (keyedPlain .k256).ctrl.ks.keyBits ∧
    256 < (225 : Addr).toNat + (32 : Len).val ∧ (224 : Addr).toNat + (32 : Len).val ≤ 256 ∧
    14 ≤ (keyedPlain .k256).ctrl.ks.nr ∧ (keyedPlain .k128).ctrl.ks.nr < 11 := by decide

theorem witness_StoreRoundKeyCommand :
    State.reset.status.kv = false ∧ (keyedPlain .k128).Running ∧ (keyedPlain .k128).status.kv = true ∧
    (keyedPlain .k128).ctrl.ks.nr < (11 : Fin 64).val ∧ (10 : Fin 64).val ≤ (keyedPlain .k128).ctrl.ks.nr ∧
    240 < (241 : Addr).toNat ∧ (240 : Addr).toNat ≤ 240 ∧ (10 : Fin 64).val < 15 := by decide

/-- For the statements on `ENCB`, `DECB`, `CH.ENC` and `CH.DEC`: no key, and a key of the longest schedule, whose first
and last full rounds are 1 and 13. -/
theorem witness_EncryptBlockRounds_DecryptBlockRounds_ChainedEncryption_ChainedDecryption :
    State.reset.Running ∧ State.reset.status.kv = false ∧ (keyedPlain .k256).Running ∧
    (keyedPlain .k256).status.kv = true ∧ 1 < (keyedPlain .k256).ctrl.ks.nr ∧ 13 < (keyedPlain .k256).ctrl.ks.nr ∧
    (keyedPlain .k256).ctrl.ks.nr < 15 := by decide

theorem witness_DecryptUndoesEncrypt_ChainedDecryptionUndoesEncryption :
    (keyedPlain .k192).Running ∧ (keyedPlain .k192).status.kv = true ∧
    BoxesInverse (keyedPlain .k192).fwd (keyedPlain .k192).inv := ⟨rfl, rfl, boxesInverse_sameBytes⟩

theorem witness_DecryptedBlockIsTheZeroPaddedBlock :
    (keyedPlain .k128).Running ∧ (keyedPlain .k128).status.kv = true ∧
    BoxesInverse (keyedPlain .k128).fwd (keyedPlain .k128).inv ∧ (16 : Len).val ≤ 16 ∧
    (240 : Addr).toNat + (16 : Len).val ≤ 256 ∧ (240 : Addr).toNat ≤ 240 := ⟨rfl, rfl, boxesInverse_sameBytes, by decide⟩

theorem witness_BlockCommandsEqualTheRoundCommands :
    (keyedPlain .k128).Running ∧ (keyedPlain .k128).status.kv = true ∧ (keyedPlain .k128).status.sbv = true := by decide

theorem witness_InitAndStoreChainRegister :
    State.reset.Running ∧ 240 < (241 : Addr).toNat ∧ (240 : Addr).toNat ≤ 240 := by decide

end Sys2Proof.Tests
end

/-! PROOFS of the family 10_state.md. First what a command can do and what a step can do, each said once; then the
substitution box and the key expansion; then the obligations O16, O13, O7, O9 and O15. -/

namespace Sys2Proof.Machine

open Sys2Proof Sys2Proof.Stated

/-! ### What an operation that answers a state has passed -/

/-- An operation in sequence answers a value only when both of its parts do. -/
theorem bind_eq_ok {α β : Type} {x : Except FaultCode α} {f : α → Except FaultCode β} {b : β}
    (h : (x >>= f) = .ok b) : ∃ a, x = .ok a ∧ f a = .ok b := by
  cases x with
  | error e => cases h
  | ok a => exact ⟨a, rfl, h⟩

theorem sbv_of_needBox {s : State} {u : Unit} (h : needBox s = .ok u) : s.status.sbv = true := by
  cases hs : s.status.sbv with
  | true => rfl
  | false => rw [needBox_of_unbuilt hs] at h; cases h

theorem le_of_blockLength {len : Len} {n : Nat} (h : blockLength len = .ok n) : n = len.val ∧ len.val ≤ 16 := by
  rcases Nat.lt_or_ge 16 len.val with hlong | hle
  · rw [blockLength_of_long hlong] at h; cases h
  · rw [blockLength_of_le hle] at h; cases h; exact ⟨rfl, hle⟩

theorem length_of_memRead {s : State} {addr : Addr} {n : Nat} {v : List Byte} (h : memRead s addr n = .ok v) :
    v.length = n := by
  rcases Nat.lt_or_ge 256 (addr.toNat + n) with hfar | hle
  · rw [memRead_of_beyond hfar] at h; cases h
  · rw [memRead_of_le hle] at h; cases h; exact Memory.length_readRun ..

theorem length_of_keyOperand {s : State} {addr : Addr} {len : Len} {key : List Byte}
    (h : keyOperand s addr len = .ok key) : key.length * 8 = s.ctrl.ks.keyBits := by
  by_cases hl : len.val * 8 = s.ctrl.ks.keyBits
  · rw [keyOperand, if_neg (not_not.mpr hl)] at h
    rw [length_of_memRead h, hl]
  · rw [keyOperand_of_length hl] at h; cases h

/-- From `s` to `t` a run of `n` bytes was stored at `addr`, all of it inside DMEM, and nothing else changed. -/
def RunStored (s t : State) (addr : Addr) (n : Nat) : Prop :=
  ∃ v : List Byte, v.length = n ∧ addr.toNat + n ≤ 256 ∧ t = s.writeDmem (Memory.writeRun s.dmem addr.toNat v)

theorem runStored_of_memWrite {s t : State} {addr : Addr} {v : List Byte} (h : memWrite s addr v = .ok t) :
    RunStored s t addr v.length := by
  rcases Nat.lt_or_ge 256 (addr.toNat + v.length) with hfar | hle
  · rw [memWrite_of_beyond hfar] at h; cases h
  · rw [memWrite_of_le hle] at h; cases h; exact ⟨v, rfl, hle, rfl⟩

/-! ### What a command can do -/

/-- The fields a command that completes may have written, by the command: `t` is `s` with exactly these updated, to some
value where the value is of no account to a frame or to the invariant. -/
def CommandEffect (i : Instr) (s t : State) : Prop :=
  match i with
  | .nop => t = s
  | .gfLi d _ | .gfMov d _ | .gfAdd d _ _ | .gfDeg d _ | .gfDiv d _ _ | .gfRem d _ _ | .gfMul d _ _ | .gfInv d _
  | .gfCmp d _ _ | .gfLdb d _ | .sbFwd d _ | .sbInv d _ | .sbAff d _ | .sbBrev d _ | .stGet d _ =>
    ∃ v, t = s.writeP d v
  | .gfXgcd d _ _ => ∃ u v w, t = ((s.writeP d u).writeP (d + 1) v).writeP (d + 2) w
  | .stLd _ _ | .stSet _ _ | .subbytes | .isubbytes | .shiftrows | .ishiftrows | .mixcols | .imixcols | .ark _
  | .arkm _ _ | .encb | .decb => ∃ m, t = s.writeMatrix m
  | .gfStb _ addr => RunStored s t addr 1
  | .stSt addr len => RunStored s t addr len.val
  | .rkSt addr _ | .chSt addr => RunStored s t addr 16
  | .seedLo _ | .seedHi _ => ∃ v, t = s.writeSeed v
  | .sbBuild => t = s.buildBox (permutation s.seed)
  | .cfg _ => ∃ c, t = (s.writeCtrl c).invalidateKey
  | .kexp _ _ => s.status.sbv = true ∧ ∃ key : List Byte, key.length * 8 = s.ctrl.ks.keyBits ∧
      t = (s.writeRoundKeys (expandInto ksTArg s.rk key s.ctrl.ks s.fwd)).markKeyExpanded
  | .chInit => ∃ b, t = s.writeChain b
  | .chEnc | .chDec => ∃ y, t = s.writeChained y

/-- Each command is `runCommand` of an operation, and a state that operation answers has the command's effect. -/
theorem exists_operation_effect (i : Instr) (s : State) :
    ∃ r : Except FaultCode State, exec i s = runCommand s r ∧ ∀ t, r = .ok t → CommandEffect i s t := by
  cases i with
  | nop | sbBuild => refine ⟨.ok _, rfl, ?_⟩; rintro t ⟨⟩; exact rfl
  | gfLi | gfMov | gfAdd | gfDeg | gfMul | gfInv | gfCmp | gfLdb | stGet | seedLo | seedHi | shiftrows | ishiftrows
  | mixcols | imixcols | chInit => refine ⟨.ok _, rfl, ?_⟩; rintro t ⟨⟩; exact ⟨_, rfl⟩
  | gfXgcd => refine ⟨.ok _, rfl, ?_⟩; rintro t ⟨⟩; exact ⟨_, _, _, rfl⟩
  | gfDiv d a b | gfRem d a b =>
    refine ⟨_, rfl, fun t h => ?_⟩
    split at h
    · cases h
    · cases h; exact ⟨_, rfl⟩
  | sbAff | sbBrev | stLd | stSet | subbytes | isubbytes | arkm | encb | decb | chEnc | chDec =>
    refine ⟨_, rfl, fun t h => ?_⟩
    obtain ⟨_, -, h⟩ := bind_eq_ok h
    cases h; exact ⟨_, rfl⟩
  | sbFwd | sbInv | ark | cfg =>
    refine ⟨_, rfl, fun t h => ?_⟩
    obtain ⟨_, -, h⟩ := bind_eq_ok h
    obtain ⟨_, -, h⟩ := bind_eq_ok h
    cases h; exact ⟨_, rfl⟩
  | gfStb =>
    refine ⟨_, rfl, fun t h => ?_⟩
    obtain ⟨_, -, h⟩ := bind_eq_ok h
    exact runStored_of_memWrite h
  | stSt addr len =>
    refine ⟨_, rfl, fun t h => ?_⟩
    obtain ⟨n, hn, h⟩ := bind_eq_ok h
    obtain ⟨rfl, hle⟩ := le_of_blockLength hn
    have hrun := runStored_of_memWrite h
    rwa [List.length_take_of_le (by simpa using hle)] at hrun
  | rkSt =>
    refine ⟨_, rfl, fun t h => ?_⟩
    obtain ⟨_, -, h⟩ := bind_eq_ok h
    obtain ⟨_, -, h⟩ := bind_eq_ok h
    have hrun := runStored_of_memWrite h
    rwa [Vector.length_toList] at hrun
  | chSt =>
    refine ⟨_, rfl, fun t h => ?_⟩
    have hrun := runStored_of_memWrite h
    rwa [Vector.length_toList] at hrun
  | kexp =>
    refine ⟨_, rfl, fun t h => ?_⟩
    obtain ⟨_, hbox, h⟩ := bind_eq_ok h
    obtain ⟨key, hkey, h⟩ := bind_eq_ok h
    cases h
    exact ⟨sbv_of_needBox hbox, key, length_of_keyOperand hkey, rfl⟩

/-- Everything a command can do: nothing, the entry of one fault, or its effect; the last two only in a state that is
not halted (60_exceptions.md R231, R232). -/
theorem exec_cases {i : Instr} {s t : State} (h : exec i s = .next t) :
    t = s ∨ s.Running ∧ ((∃ f, t = takeFault f s) ∨ CommandEffect i s t) := by
  obtain ⟨r, hr, heffect⟩ := exists_operation_effect i s
  obtain ⟨-, hnext⟩ | ⟨hrun, u, rfl, hnext⟩ | ⟨hrun, f, rfl, hnext⟩ := runCommand_cases s r
  all_goals
    rw [hr, hnext] at h
    cases h
  · exact .inl rfl
  · exact .inr ⟨hrun, .inr (heffect t rfl)⟩
  · exact .inr ⟨hrun, .inl ⟨f, rfl⟩⟩

/-- Everything a command word can do: nothing, the entry of one fault, or the effect of the command it decodes to. -/
theorem issueWord_cases {w : CommandWord} {s t : State} (h : issueWord w s = .next t) :
    t = s ∨ s.Running ∧ ((∃ f, t = takeFault f s) ∨ ∃ i, decodeWord w = .ok i ∧ CommandEffect i s t) := by
  unfold issueWord at h
  split at h
  case h_1 i hi =>
    obtain rfl | ⟨hrun, hfault | heffect⟩ := exec_cases h
    · exact .inl rfl
    · exact .inr ⟨hrun, .inl hfault⟩
    · exact .inr ⟨hrun, .inr ⟨i, hi, heffect⟩⟩
  case h_2 =>
    cases herr : s.status.err with
    | true => rw [illegalCommand, runCommand_of_halted herr] at h; cases h; exact .inl rfl
    | false => rw [illegalCommand, runCommand_error herr] at h; cases h; exact .inr ⟨herr, .inl ⟨_, rfl⟩⟩

/-- Everything a step can do: hold the state when idle, or take the host's next action (70_reset_and_hazards.md R264)
and then reset, write a byte of DMEM, leave the rest alone, or take a command's fault or its effect. -/
theorem step_cases {s t : State} (h : step s = .next t) :
    t = s ∨ ∃ a rest, s.host = a :: rest ∧
      (a = .reset ∧ t = applyReset (s.writeHost rest) ∨
       (∃ addr b, a = .writeDmem addr b ∧ t = hostWriteDmem addr b (s.writeHost rest)) ∨
       t = s.writeHost rest ∨
       s.Running ∧ (∃ f, t = takeFault f (s.writeHost rest)) ∨
       s.Running ∧ ∃ w i, a = .command w ∧ decodeWord w = .ok i ∧ CommandEffect i (s.writeHost rest) t) := by
  unfold step at h
  split at h
  case h_1 => cases h; exact .inl rfl
  case h_2 a rest hhost =>
    refine .inr ⟨a, rest, hhost, ?_⟩
    cases a with
    | reset => cases h; exact .inl ⟨rfl, rfl⟩
    | writeDmem addr b => cases h; exact .inr (.inl ⟨addr, b, rfl, rfl⟩)
    | readDmem | readPort => cases h; exact .inr (.inr (.inl rfl))
    | command w =>
      obtain rfl | ⟨hrun, hfault | ⟨i, hi, heffect⟩⟩ := issueWord_cases h
      · exact .inr (.inr (.inl rfl))
      · exact .inr (.inr (.inr (.inl ⟨hrun, hfault⟩)))
      · exact .inr (.inr (.inr (.inr ⟨hrun, w, i, rfl, hi, heffect⟩)))

/-! ### The seeded permutation and the tables built from it (41_sbox.md R131 to R135) -/

/-- The draws take out every element of the pool, each once. -/
theorem drawFrom_perm (draw : Nat → (n : Nat) → Fin (n + 1)) (n k : Nat) (pool : List Byte) (h : pool.length = n) :
    (drawFrom draw n k pool).Perm pool := by
  induction n generalizing k pool with
  | zero => rw [List.length_eq_zero_iff.mp h]; exact .nil
  | succ n ih =>
    have hj : (draw k n).val < pool.length := by omega
    have hrest : (pool.eraseIdx (draw k n).val).length = n := by rw [List.length_eraseIdx_of_lt hj]; omega
    simp only [drawFrom, List.getElem?_eq_getElem hj]
    exact ((ih (k + 1) _ hrest).cons _).trans (List.getElem_cons_eraseIdx_perm hj)

theorem nodup_initialPool : initialPool.Nodup :=
  List.nodup_range.map_on fun x hx y hy h => by
    rw [List.mem_range] at hx hy
    simpa [Nat.mod_eq_of_lt hx, Nat.mod_eq_of_lt hy] using congrArg BitVec.toNat h

theorem permutationOf_toList_perm (draw : Nat → (n : Nat) → Fin (n + 1)) :
    (permutationOf draw).toList.Perm initialPool :=
  drawFrom_perm draw 256 0 initialPool (by simp [initialPool])

/-- No byte is drawn twice (R132). -/
theorem lookup_permutationOf_injective (draw : Nat → (n : Nat) → Fin (n + 1)) :
    Function.Injective (Table.lookup (permutationOf draw)) := by
  intro x y h
  have hnodup : (permutationOf draw).toList.Nodup := (permutationOf_toList_perm draw).nodup_iff.mpr nodup_initialPool
  have hx : x.toNat < (permutationOf draw).toList.length := by simpa using x.isLt
  have hy : y.toNat < (permutationOf draw).toList.length := by simpa using y.isLt
  exact BitVec.eq_of_toNat_eq ((hnodup.getElem_inj_iff (hi := hx) (hj := hy)).mp h)

/-- The inverse of `affine`: 0xB2 is the inverse of 0x1F in the field, and `bitrev8` undoes itself. -/
def affineInverse (b : Byte) : Byte := bitrev8 (byteMul (b ^^^ 0x63#8) 0xB2#8)

theorem affineInverse_affine (b : Byte) : affineInverse (affine b) = b := by
  revert b; decide +kernel

theorem affine_injective : Function.Injective affine :=
  Function.LeftInverse.injective affineInverse_affine

theorem lookup_buildForward (perm : Table) (b : Byte) :
    Table.lookup (buildForward perm) b = affine (Table.lookup perm b) := by
  simp [Table.lookup, buildForward]

theorem lookup_buildForward_injective {perm : Table} (h : Function.Injective (Table.lookup perm)) :
    Function.Injective (Table.lookup (buildForward perm)) := by
  intro x y hxy
  rw [lookup_buildForward, lookup_buildForward] at hxy
  exact h (affine_injective hxy)

theorem lookup_set (box : Table) (c v b : Byte) :
    Table.lookup (box.set c.toNat v) b = if c = b then v else Table.lookup box b := by
  simp [Table.lookup, Vector.getElem_set, BitVec.toNat_inj]

/-- What the assignments `INV[FWD[i]] := i`, for the `i` of a list, leave at `FWD[j]`: `j` if it was among them, and
otherwise what stood there. -/
theorem lookup_foldl_set {fwd : Table} (hfwd : Function.Injective (Table.lookup fwd)) (is : List (Fin 256))
    (old : Table) (j : Fin 256) :
    Table.lookup (is.foldl (fun inv i => inv.set (fwd[i]).toNat (BitVec.ofNat 8 i.val)) old) fwd[j] =
      if j ∈ is then BitVec.ofNat 8 j.val else Table.lookup old fwd[j] := by
  induction is generalizing old with
  | nil => rfl
  | cons i is ih =>
    have hset : Table.lookup (old.set (fwd[i]).toNat (BitVec.ofNat 8 i.val)) fwd[j] =
        if j = i then BitVec.ofNat 8 j.val else Table.lookup old fwd[j] := by
      rw [lookup_set]
      by_cases hij : j = i
      · subst hij; simp
      · rw [if_neg hij, if_neg]
        exact fun h => hij (congrArg BitVec.toFin (@hfwd (.ofFin j) (.ofFin i) h.symm))
    rw [List.foldl_cons, ih, hset]
    by_cases hmem : j ∈ is <;> simp [hmem]

/-- The inverse construction undoes an injective table, over whatever stood there (R134). -/
theorem lookup_buildInverse {fwd : Table} (hfwd : Function.Injective (Table.lookup fwd)) (old : Table) (b : Byte) :
    Table.lookup (buildInverse fwd old) (Table.lookup fwd b) = b := by
  have h := lookup_foldl_set hfwd (List.finRange 256) old b.toFin
  rw [if_pos (List.mem_finRange _)] at h
  exact h.trans (BitVec.eq_of_toNat_eq (by simp))

/-- An injective table and the table constructed to invert it undo each other both ways (R135). -/
theorem boxesInverse_buildInverse {fwd : Table} (hfwd : Function.Injective (Table.lookup fwd)) (old : Table) :
    BoxesInverse fwd (buildInverse fwd old) :=
  have hleft : Function.LeftInverse (Table.lookup (buildInverse fwd old)) (Table.lookup fwd) :=
    lookup_buildInverse hfwd old
  ⟨hleft, hleft.rightInverse_of_surjective (Finite.injective_iff_surjective.mp hfwd)⟩

/-- `SB.BUILD` builds mutually inverse tables from every seed (R138). -/
theorem boxesInverse_build (seed : BitVec 32) (old : Table) :
    BoxesInverse (buildForward (permutation seed)) (buildInverse (buildForward (permutation seed)) old) :=
  boxesInverse_buildInverse (lookup_buildForward_injective (lookup_permutationOf_injective _)) old

/-! ### The expanded round keys (43_keyschedule.md R184, R187) -/

/-- The round keys up to Nr are those of the schedule. -/
theorem roundKey_expandInto (arg : KsTArg) (old : RoundKeys) (key : List Byte) (ks : KeySize) (fwd : Table) {k : Nat}
    (hk : k ≤ ks.nr) : roundKey (expandInto arg old key ks fwd) k = packRoundKey (scheduleWords arg key ks fwd) k := by
  have hlt : k < 15 := by have := ks.nr_le; omega
  simp [roundKey, expandInto, hlt, hk]

/-! ### The invariants of 10_state.md R34 -/

/-- The invariants speak of the flags, the tables, the round keys, CTRL and the form of DMEM alone. -/
theorem State.Inv.of_eq {s t : State} (h : s.Inv) (hstatus : t.status = s.status) (hfwd : t.fwd = s.fwd)
    (hinv : t.inv = s.inv) (hrk : t.rk = s.rk) (hctrl : t.ctrl = s.ctrl) (hdmem : Memory.wf t.dmem = true) : t.Inv where
  keyNeedsBox := by rw [hstatus]; exact h.keyNeedsBox
  boxesInverse := by rw [hstatus, hfwd, hinv]; exact h.boxesInverse
  keyExpanded := by rw [hstatus, hrk, hctrl, hfwd]; exact h.keyExpanded
  causeZero := by rw [hstatus]; exact h.causeZero
  causeKnown := by rw [hstatus]; exact h.causeKnown
  dmemCanonical := hdmem

theorem State.Inv.writeHost {s : State} (h : s.Inv) (actions : List HostAction) : (s.writeHost actions).Inv :=
  h.of_eq rfl rfl rfl rfl rfl h.dmemCanonical

theorem State.Inv.hostWriteDmem {s : State} (h : s.Inv) (addr : Addr) (b : Byte) : (hostWriteDmem addr b s).Inv :=
  h.of_eq rfl rfl rfl rfl rfl (Memory.wf_write b h.dmemCanonical addr.isLt)

theorem State.Inv.of_runStored {s t : State} {addr : Addr} {n : Nat} (h : s.Inv) (hrun : RunStored s t addr n) :
    t.Inv := by
  obtain ⟨v, rfl, hle, rfl⟩ := hrun
  exact h.of_eq rfl rfl rfl rfl rfl (Memory.wf_writeRun h.dmemCanonical hle)

/-- With no flag set there is nothing to ask of the tables and the round keys, whatever they hold. -/
theorem State.Inv.of_reset_status {s : State} (hstatus : s.status = State.reset.status)
    (hdmem : Memory.wf s.dmem = true) : s.Inv where
  keyNeedsBox := by rw [hstatus]; decide
  boxesInverse := by rw [hstatus]; exact fun hsbv => absurd hsbv (by decide)
  keyExpanded := by rw [hstatus]; exact fun hkv => absurd hkv (by decide)
  causeZero := by rw [hstatus]; decide
  causeKnown := by rw [hstatus]; decide
  dmemCanonical := hdmem

theorem State.Inv.applyReset {s : State} (h : s.Inv) : (applyReset s).Inv := .of_reset_status rfl h.dmemCanonical

theorem FaultCode.code_toNat_le (f : FaultCode) : f.code.toNat ≤ 10 := by cases f <;> decide

/-- A fault sets ERR together with a nonzero code of at most 10 (60_exceptions.md R230, R231). -/
theorem State.Inv.takeFault {s : State} (h : s.Inv) (f : FaultCode) : (takeFault f s).Inv where
  keyNeedsBox := h.keyNeedsBox
  boxesInverse := h.boxesInverse
  keyExpanded := h.keyExpanded
  causeZero := by simpa using f.code_ne_zero
  causeKnown := f.code_toNat_le
  dmemCanonical := h.dmemCanonical

/-- New tables come with SBV = 1 and KV = 0, so the round keys of the old ones are not asked about (41_sbox.md R138). -/
theorem State.Inv.buildBox {s : State} (h : s.Inv) (seed : BitVec 32) : (s.buildBox (permutation seed)).Inv where
  keyNeedsBox := fun _ => rfl
  boxesInverse := fun _ => by
    rw [State.buildBox_fwd, State.buildBox_inv]; exact boxesInverse_build seed s.inv
  keyExpanded := fun hkv => absurd hkv (by simp)
  causeZero := h.causeZero
  causeKnown := h.causeKnown
  dmemCanonical := h.dmemCanonical

/-- A new CTRL comes with KV = 0, so the round keys of the old key size are not asked about (43_keyschedule.md R186). -/
theorem State.Inv.configure {s : State} (h : s.Inv) (c : Ctrl) : (s.writeCtrl c).invalidateKey.Inv where
  keyNeedsBox := fun hkv => absurd hkv (by simp)
  boxesInverse := h.boxesInverse
  keyExpanded := fun hkv => absurd hkv (by simp)
  causeZero := h.causeZero
  causeKnown := h.causeKnown
  dmemCanonical := h.dmemCanonical

/-- KV is set only with a box built, and together with the round keys of some key (43_keyschedule.md R187). -/
theorem State.Inv.expandKey {s : State} (h : s.Inv) (hbox : s.status.sbv = true) {key : List Byte}
    (hkey : key.length * 8 = s.ctrl.ks.keyBits) {rk : RoundKeys}
    (hrk : ∀ k ≤ s.ctrl.ks.nr, roundKey rk k = packRoundKey (scheduleWords ksTArg key s.ctrl.ks s.fwd) k) :
    (s.writeRoundKeys rk).markKeyExpanded.Inv where
  keyNeedsBox := fun _ => hbox
  boxesInverse := h.boxesInverse
  keyExpanded := fun _ => ⟨key, hkey, hrk⟩
  causeZero := h.causeZero
  causeKnown := h.causeKnown
  dmemCanonical := h.dmemCanonical

/-- A command that completes keeps the invariants: the field unit, the matrix and the chain register are outside them,
and what writes DMEM, the tables, CTRL or the round keys keeps them by the lemmas above. -/
theorem State.Inv.of_commandEffect {i : Instr} {s t : State} (h : s.Inv) (heffect : CommandEffect i s t) : t.Inv := by
  cases i with
  | nop => obtain rfl := heffect; exact h
  | gfLi | gfMov | gfAdd | gfDeg | gfDiv | gfRem | gfMul | gfInv | gfCmp | gfLdb | sbFwd | sbInv | sbAff | sbBrev
  | stGet | stLd | stSet | subbytes | isubbytes | shiftrows | ishiftrows | mixcols | imixcols | ark | arkm | encb | decb
  | seedLo | seedHi | chInit | chEnc | chDec =>
    obtain ⟨_, rfl⟩ := heffect
    exact h.of_eq rfl rfl rfl rfl rfl h.dmemCanonical
  | gfXgcd => obtain ⟨_, _, _, rfl⟩ := heffect; exact h.of_eq rfl rfl rfl rfl rfl h.dmemCanonical
  | gfStb | stSt | rkSt | chSt => exact h.of_runStored heffect
  | sbBuild => obtain rfl := heffect; exact h.buildBox s.seed
  | cfg => obtain ⟨c, rfl⟩ := heffect; exact h.configure c
  | kexp =>
    obtain ⟨hbox, key, hkey, rfl⟩ := heffect
    exact h.expandKey hbox hkey fun _ hk => roundKey_expandInto _ _ _ _ _ hk

theorem State.Inv.step {s t : State} (h : s.Inv) (hstep : step s = .next t) : t.Inv := by
  obtain rfl | ⟨_, rest, -, ⟨-, rfl⟩ | ⟨addr, b, -, rfl⟩ | rfl | ⟨-, f, rfl⟩ | ⟨-, _, i, -, -, heffect⟩⟩ :=
    step_cases hstep
  · exact h
  · exact (h.writeHost rest).applyReset
  · exact (h.writeHost rest).hostWriteDmem addr b
  · exact h.writeHost rest
  · exact (h.writeHost rest).takeFault f
  · exact (h.writeHost rest).of_commandEffect heffect

/-- Settles O16: every case of `step_cases` keeps the invariants. -/
theorem everyStepKeepsTheInvariant : Obligations.EveryStepKeepsTheInvariant := fun _ _ h hstep => h.step hstep

/-- Settles O15: no flag is set and no byte of DMEM is written. -/
theorem resetHasTheInvariant : Obligations.ResetHasTheInvariant := .of_reset_status rfl rfl

/-! ### Which commands write which registers (10_state.md R20) -/

theorem RunStored.eq_writeDmem {s t : State} {addr : Addr} {n : Nat} (h : RunStored s t addr n) :
    ∃ m, t = s.writeDmem m := by
  obtain ⟨v, -, -, rfl⟩ := h; exact ⟨_, rfl⟩

/-- Settles O13: the two other outcomes of a command write STATUS.ERR and STATUS.CAUSE at most, and its effect writes
the fields that `CommandEffect` names for it. -/
theorem onlyTheNamedCommandsWriteEachRegister : Obligations.OnlyTheNamedCommandsWriteEachRegister := by
  intro i s t h
  obtain rfl | ⟨-, ⟨f, rfl⟩ | heffect⟩ := exec_cases h
  · simp
  · simp
  · cases i with
    | nop => obtain rfl := heffect; simp
    | gfLi | gfMov | gfAdd | gfDeg | gfDiv | gfRem | gfMul | gfInv | gfCmp | gfLdb | sbFwd | sbInv | sbAff | sbBrev
    | stGet => obtain ⟨v, rfl⟩ := heffect; simp
    | gfXgcd => obtain ⟨u, v, w, rfl⟩ := heffect; simp
    | stLd | stSet | subbytes | isubbytes | shiftrows | ishiftrows | mixcols | imixcols | ark | arkm | encb | decb =>
      obtain ⟨m, rfl⟩ := heffect; simp
    | gfStb | stSt | rkSt | chSt => obtain ⟨m, rfl⟩ := heffect.eq_writeDmem; simp
    | seedLo | seedHi => obtain ⟨v, rfl⟩ := heffect; simp
    | sbBuild => obtain rfl := heffect; simp
    | cfg => obtain ⟨c, rfl⟩ := heffect; simp
    | kexp => obtain ⟨-, key, -, rfl⟩ := heffect; simp
    | chInit => obtain ⟨b, rfl⟩ := heffect; simp
    | chEnc | chDec => obtain ⟨y, rfl⟩ := heffect; simp

/-! ### Reset and the register port (10_state.md R35, R36) -/

/-- Settles O7: each field of `State.reset` read at each of its indices. -/
theorem resetValues : Obligations.ResetValues := by
  refine ⟨?_, ?_, ?_, rfl, rfl, rfl, fun a => rfl⟩
  · intro r; simp [State.reset]
  · intro i; simp [flat, State.reset, Matrix.zero]
  · intro i; simp [State.reset]

/-- CTRL as a number: KS in the two low bits, MODE above them (R24). -/
theorem Ctrl.toNat_word (c : Ctrl) : c.word.toNat = c.ks.code.toNat + 4 * c.mode.code.toNat := by
  simp only [Ctrl.word, toNat_append_add, BitVec.toNat_ofNat]; omega

/-- STATUS as a number: the three flags in bits 0 to 2, CAUSE from bit 4 on (R23). -/
theorem Status.toNat_word (x : Status) :
    x.word.toNat = x.sbv.toNat + 2 * x.kv.toNat + 4 * x.err.toNat + 16 * x.cause.toNat := by
  simp only [Status.word, toNat_append_add, BitVec.toNat_ofNat, BitVec.toNat_ofBool]; omega

theorem readPort_of_lt (s : State) {n : BitVec 4} (h : n.toNat < 8) : s.readPort n = (s.p[n.toNat]).setWidth 32 :=
  dif_pos h

/-- Above index 10 there is no register (R35). -/
theorem readPort_of_gt (s : State) {n : BitVec 4} (h : 10 < n.toNat) : s.readPort n = 0 := by
  have hne : ∀ m : BitVec 4, m.toNat ≤ 10 → n ≠ m := by rintro m hm rfl; omega
  rw [State.readPort, dif_neg (by omega), if_neg (hne 8 (by decide)), if_neg (hne 9 (by decide)),
    if_neg (hne 10 (by decide))]

/-- A read on the register port only takes its place among the host's actions. -/
theorem step_readPort {s : State} {k : BitVec 4} {rest : List HostAction} (h : s.host = .readPort k :: rest) :
    step s = .next (s.writeHost rest) := by rw [step, h]; rfl

/-- Settles O9: registers, CTRL, STATUS and SEED by their indices, and nothing above. -/
theorem registerPortShowsTheRegisters : Obligations.RegisterPortShowsTheRegisters := by
  refine ⟨fun s r => ?_, fun s => ?_, fun s => Status.toNat_word s.status, fun s => rfl, fun s n hn => ?_,
    fun s k rest h => step_readPort h⟩
  · have hr : (BitVec.ofNat 4 r.val).toNat = r.val := by simp; omega
    rw [readPort_of_lt s (by omega)]
    simp only [hr]
    exact (BitVec.toNat_setWidth ..).trans (by simp; omega)
  · refine (Ctrl.toNat_word s.ctrl).trans ?_
    cases s.ctrl.ks <;> cases s.ctrl.mode <;> rfl
  · exact readPort_of_gt s (by simp; omega)

end Sys2Proof.Machine

/-! PROOFS of the family 20_memory.md. What a stored run leaves of DMEM and what the host's next action does, each said
once; then the obligations O14 and O10. -/

namespace Sys2Proof.Machine

open Sys2Proof Sys2Proof.Stated

/-! ### Which bytes of DMEM a command writes (20_memory.md R56, R66) -/

/-- Outside the run every byte of DMEM reads as before. -/
theorem RunStored.byteAt_of_outside {s t : State} {addr : Addr} {n x : Nat} (h : RunStored s t addr n)
    (hx : ¬ (addr.toNat ≤ x ∧ x < addr.toNat + n)) : byteAt t x = byteAt s x := by
  obtain ⟨v, rfl, -, rfl⟩ := h
  rw [byteAt, State.writeDmem_dmem, Memory.read_writeRun, dif_neg hx]

/-- The effect of a command reaches no byte of DMEM but those its word names: four commands store a run of bytes, the
others have no DMEM among the fields they write. -/
theorem CommandEffect.byteAt_of_not_mayWrite {i : Instr} {s t : State} {x : Nat} (heffect : CommandEffect i s t)
    (hx : ¬ MayWrite i x) : byteAt t x = byteAt s x := by
  cases i with
  | gfStb r addr =>
    have hne : x ≠ addr.toNat := hx
    exact heffect.byteAt_of_outside (by omega)
  | stSt | rkSt | chSt => exact heffect.byteAt_of_outside hx
  | nop => obtain rfl := heffect; rfl
  | gfLi | gfMov | gfAdd | gfDeg | gfDiv | gfRem | gfMul | gfInv | gfCmp | gfLdb | sbFwd | sbInv | sbAff | sbBrev
  | stGet | stLd | stSet | subbytes | isubbytes | shiftrows | ishiftrows | mixcols | imixcols | ark | arkm | encb | decb
  | seedLo | seedHi | cfg | chInit | chEnc | chDec => obtain ⟨_, rfl⟩ := heffect; simp [byteAt]
  | gfXgcd => obtain ⟨_, _, _, rfl⟩ := heffect; simp [byteAt]
  | sbBuild => obtain rfl := heffect; simp [byteAt]
  | kexp => obtain ⟨-, _, -, rfl⟩ := heffect; simp [byteAt]

/-- Settles O14: a halted unit and a fault leave DMEM alone, and the effect of the command stays within the bytes its
word names. -/
theorem commandsWriteOnlyTheBytesTheyName : Obligations.CommandsWriteOnlyTheBytesTheyName := by
  intro i s t x h hx
  obtain rfl | ⟨-, ⟨f, rfl⟩ | heffect⟩ := exec_cases h
  · rfl
  · rw [byteAt, takeFault_dmem]
  · exact heffect.byteAt_of_not_mayWrite hx

/-! ### The host's access to DMEM (20_memory.md R57, R61) -/

/-- The host's next action is taken on the state with the other actions left pending, halted or not. -/
theorem step_of_host {s : State} {a : HostAction} {rest : List HostAction} (h : s.host = a :: rest) :
    step s = hostAct a (s.writeHost rest) := by rw [step, h]

/-- After a host write the address reads as the byte, and every other address as before. -/
theorem hostReadDmem_hostWriteDmem (a x : Addr) (b : Byte) (s : State) :
    (hostWriteDmem a b s).hostReadDmem x = if x = a then b else s.hostReadDmem x := by
  simp only [State.hostReadDmem, hostWriteDmem_dmem, Memory.read_write, BitVec.toNat_inj]

/-- Settles O10: what `hostWriteDmem` does to one address and to the others, and a read that only takes its place among
the host's actions. -/
theorem hostReadsAndWritesDmem : Obligations.HostReadsAndWritesDmem := by
  refine ⟨fun s a b rest h => ?_, fun s a rest h => step_of_host h⟩
  refine ⟨hostWriteDmem a b (s.writeHost rest), step_of_host h, ?_, fun x hx => ?_, rfl⟩
  · rw [hostReadDmem_hostWriteDmem, if_pos rfl]
  · rw [hostReadDmem_hostWriteDmem, if_neg hx]; rfl

end Sys2Proof.Machine

/-! PROOFS of the family 30_encoding.md. First what a row fixes of the words it matches, that no two rows have one opcode,
and the decoder read through its rows; then the word of each format put together again from its fields; then the
obligations O1 to O5. -/

namespace Sys2Proof

open Sys2Proof.Machine Sys2Proof.Stated

/-! ### What a match fixes (30_encoding.md R74) -/

/-- A bit that the mask has is the bit of the match. -/
theorem getLsbD_of_mask {w m b : CommandWord} {i : Nat} (h : w &&& m = b) (hm : m.getLsbD i = true) :
    w.getLsbD i = b.getLsbD i := by
  rw [← h, BitVec.getLsbD_and, hm, Bool.and_true]

/-- A field that the mask has whole is the field of the match. -/
theorem extractLsb'_of_mask {w m b : CommandWord} {s n : Nat} (h : w &&& m = b)
    (hm : m.extractLsb' s n = BitVec.allOnes n) : w.extractLsb' s n = b.extractLsb' s n := by
  rw [← h, BitVec.extractLsb'_and, hm, BitVec.and_allOnes]

/-- Every row has the opcode, bits 31:24, whole in its mask. -/
theorem opcode_of_match {w : CommandWord} {r : Row} (hr : r ∈ commandRows) (h : w &&& r.mask = r.bits) :
    w.extractLsb' 24 8 = r.bits.extractLsb' 24 8 := by
  have hmask : ∀ q ∈ commandRows, q.mask.extractLsb' 24 8 = BitVec.allOnes 8 := by decide
  exact extractLsb'_of_mask h (hmask r hr)

/-- The 41 opcodes are distinct, and a word has one opcode. -/
theorem row_unique {w : CommandWord} {r q : Row} (hr : r ∈ commandRows) (hq : q ∈ commandRows)
    (hwr : w &&& r.mask = r.bits) (hwq : w &&& q.mask = q.bits) : r = q := by
  have hdistinct : (commandRows.map fun r => r.bits.extractLsb' 24 8).Nodup := by decide
  exact List.inj_on_of_nodup_map hdistinct hr hq ((opcode_of_match hr hwr).symm.trans (opcode_of_match hq hwq))

/-- A bit that the mask has and the match has as 0 is 0. -/
theorem getLsbD_eq_false_of_mask {w m b : CommandWord} {i : Nat} (h : w &&& m = b)
    (hrow : m.getLsbD i = true ∧ b.getLsbD i = false) : w.getLsbD i = false := by
  obtain ⟨hmask, hbits⟩ := hrow
  rw [getLsbD_of_mask h hmask, hbits]

/-- A field that the mask has whole and the match has as 0 is 0. -/
theorem extractLsb'_eq_zero_of_mask {w m b : CommandWord} {s n : Nat} (h : w &&& m = b)
    (hrow : m.extractLsb' s n = BitVec.allOnes n ∧ b.extractLsb' s n = 0) : w.extractLsb' s n = 0 := by
  obtain ⟨hmask, hbits⟩ := hrow
  rw [extractLsb'_of_mask h hmask, hbits]

/-! ### The decoder through its rows (30_encoding.md R76) -/

theorem Row.matches_iff {r : Row} {w : CommandWord} : r.matches w = true ↔ w &&& r.mask = r.bits := beq_iff_eq

/-- The rows are disjoint, so the order in which they are tried does not matter. -/
theorem decodeWord_of_match {w : CommandWord} {r : Row} (hr : r ∈ commandRows) (h : w &&& r.mask = r.bits) :
    decodeWord w = .ok (r.build w) := by
  unfold decodeWord
  split
  case h_1 q hq =>
    have hwq : q.matches w = true := List.find?_some (p := fun q : Row => q.matches w) hq
    rw [row_unique hr (List.mem_of_find?_eq_some hq) h (Row.matches_iff.mp hwq)]
  case h_2 hnone => exact absurd (Row.matches_iff.mpr h) (List.find?_eq_none.mp hnone r hr)

theorem decodeWord_of_no_match {w : CommandWord} (h : ∀ r ∈ commandRows, w &&& r.mask ≠ r.bits) :
    decodeWord w = .error (rejectReason w) := by
  have hnone : commandRows.find? (fun r => r.matches w) = none :=
    List.find?_eq_none.mpr fun r hr hm => h r hr (Row.matches_iff.mp hm)
  rw [decodeWord, hnone]

theorem exists_match_of_decodeWord {w : CommandWord} {i : Instr} (h : decodeWord w = .ok i) :
    ∃ r ∈ commandRows, w &&& r.mask = r.bits ∧ r.build w = i := by
  by_cases hmatch : ∃ r ∈ commandRows, w &&& r.mask = r.bits
  · obtain ⟨r, hr, hw⟩ := hmatch
    rw [decodeWord_of_match hr hw] at h
    exact ⟨r, hr, hw, Except.ok.inj h⟩
  · rw [decodeWord_of_no_match (by simpa using hmatch)] at h
    cases h

/-- The family `TableRow`, command by command, as one statement. -/
theorem tableRow (i : Instr) : Laws.TableRow.Statement i :=
  match i with
  | .nop => Laws.TableRow.nop
  | .gfLi d imm => Laws.TableRow.gfLi d imm
  | .gfMov d a => Laws.TableRow.gfMov d a
  | .gfAdd d a b => Laws.TableRow.gfAdd d a b
  | .gfDeg d a => Laws.TableRow.gfDeg d a
  | .gfDiv d a b => Laws.TableRow.gfDiv d a b
  | .gfRem d a b => Laws.TableRow.gfRem d a b
  | .gfMul d a b => Laws.TableRow.gfMul d a b
  | .gfXgcd d a b => Laws.TableRow.gfXgcd d a b
  | .gfInv d a => Laws.TableRow.gfInv d a
  | .gfCmp d a b => Laws.TableRow.gfCmp d a b
  | .gfLdb d addr => Laws.TableRow.gfLdb d addr
  | .gfStb r addr => Laws.TableRow.gfStb r addr
  | .seedLo imm => Laws.TableRow.seedLo imm
  | .seedHi imm => Laws.TableRow.seedHi imm
  | .sbBuild => Laws.TableRow.sbBuild
  | .sbFwd d a => Laws.TableRow.sbFwd d a
  | .sbInv d a => Laws.TableRow.sbInv d a
  | .sbAff d a => Laws.TableRow.sbAff d a
  | .sbBrev d a => Laws.TableRow.sbBrev d a
  | .stLd addr len => Laws.TableRow.stLd addr len
  | .stSt addr len => Laws.TableRow.stSt addr len
  | .stGet d idx => Laws.TableRow.stGet d idx
  | .stSet r idx => Laws.TableRow.stSet r idx
  | .subbytes => Laws.TableRow.subbytes
  | .isubbytes => Laws.TableRow.isubbytes
  | .shiftrows => Laws.TableRow.shiftrows
  | .ishiftrows => Laws.TableRow.ishiftrows
  | .mixcols => Laws.TableRow.mixcols
  | .imixcols => Laws.TableRow.imixcols
  | .ark k => Laws.TableRow.ark k
  | .arkm addr len => Laws.TableRow.arkm addr len
  | .cfg imm => Laws.TableRow.cfg imm
  | .kexp addr len => Laws.TableRow.kexp addr len
  | .rkSt addr k => Laws.TableRow.rkSt addr k
  | .encb => Laws.TableRow.encb
  | .decb => Laws.TableRow.decb
  | .chInit => Laws.TableRow.chInit
  | .chEnc => Laws.TableRow.chEnc
  | .chDec => Laws.TableRow.chDec
  | .chSt addr => Laws.TableRow.chSt addr

/-- Settles O1: the word of `i` matches a row that gives `i` back, and the decoder answers with whatever row matches. -/
theorem decodeOfEncodeGivesTheCommand : Obligations.DecodeOfEncodeGivesTheCommand := by
  intro i hi
  obtain ⟨r, hr, hmatch, hbuild⟩ := tableRow i hi
  rw [decodeWord_of_match hr (Row.matches_iff.mp hmatch), hbuild]

/-! ### A word put together again from its fields (30_encoding.md R71 to R73)

For each mask: the opcode is the match's, the fields are those of the word, and what lies between them is reserved, so
0. -/

section Formats

variable {w m : CommandWord} {op : BitVec 8}

theorem toNat_opcode_of_mask (h : w &&& m = formatN op) (hm : m.extractLsb' 24 8 = 0xFF#8) :
    w.toNat / 2 ^ 24 = op.toNat := by
  have hop := congrArg BitVec.toNat (extractLsb'_of_mask h hm)
  simp only [BitVec.extractLsb'_toNat, Nat.shiftRight_eq_div_pow, toNat_formatN] at hop
  omega

/-- Below the opcode a word of format N is 0. -/
theorem extractLsb'_formatN (op : BitVec 8) {s n : Nat} (hs : s + n ≤ 24) : (formatN op).extractLsb' s n = 0 := by
  refine BitVec.eq_of_getLsbD_eq fun i hi => ?_
  have hlow : s + i < 24 := by omega
  have happend : (formatN op).getLsbD (s + i) = (op ++ 0#24).getLsbD (s + i) := rfl
  rw [BitVec.getLsbD_extractLsb', happend, BitVec.getLsbD_append, if_pos hlow]
  simp

/-- Reserved bits, those below the opcode that the mask has, are 0. -/
theorem toNat_reserved_of_mask (h : w &&& m = formatN op) (s n : Nat) (hs : s + n ≤ 24)
    (hm : m.extractLsb' s n = BitVec.allOnes n) : w.toNat / 2 ^ s % 2 ^ n = 0 := by
  have hzero := congrArg BitVec.toNat (extractLsb'_of_mask h hm)
  rwa [extractLsb'_formatN op hs, BitVec.extractLsb'_toNat, Nat.shiftRight_eq_div_pow] at hzero

theorem formatN_of_mask (h : w &&& 0xFFFFFFFF#32 = formatN op) : formatN op = w := by
  rw [← h]; exact BitVec.and_allOnes

theorem formatR3_of_mask (h : w &&& 0xFF888FFF#32 = formatN op) :
    formatR3 op (fieldRd w) (fieldRa w) (fieldRb w) = w := by
  have hop := toNat_opcode_of_mask h (by decide)
  have h23 := toNat_reserved_of_mask h 23 1 (by decide) (by decide)
  have h19 := toNat_reserved_of_mask h 19 1 (by decide) (by decide)
  have h15 := toNat_reserved_of_mask h 15 1 (by decide) (by decide)
  have h0 := toNat_reserved_of_mask h 0 12 (by decide) (by decide)
  apply BitVec.eq_of_toNat_eq
  rw [toNat_formatR3, fieldRd_val, fieldRa_val, fieldRb_val]
  omega

theorem formatR2_of_mask (h : w &&& 0xFF88FFFF#32 = formatN op) : formatR2 op (fieldRd w) (fieldRa w) = w := by
  have hop := toNat_opcode_of_mask h (by decide)
  have h23 := toNat_reserved_of_mask h 23 1 (by decide) (by decide)
  have h19 := toNat_reserved_of_mask h 19 1 (by decide) (by decide)
  have h0 := toNat_reserved_of_mask h 0 16 (by decide) (by decide)
  apply BitVec.eq_of_toNat_eq
  rw [toNat_formatR2, fieldRd_val, fieldRa_val]
  omega

theorem formatI_of_mask (h : w &&& 0xFF8F0000#32 = formatN op) : formatI op (fieldRd w) (fieldImm w) = w := by
  have hop := toNat_opcode_of_mask h (by decide)
  have h23 := toNat_reserved_of_mask h 23 1 (by decide) (by decide)
  have h16 := toNat_reserved_of_mask h 16 4 (by decide) (by decide)
  apply BitVec.eq_of_toNat_eq
  rw [toNat_formatI, fieldRd_val, fieldImm_toNat]
  omega

/-- Format I0 under every mask that has bits 31:16: the mask of `SEED.LO` and `SEED.HI`, and that of `CFG`. -/
theorem formatI0_of_mask (h : w &&& m = formatN op) (hm : m.extractLsb' 24 8 = 0xFF#8)
    (hm16 : m.extractLsb' 16 8 = BitVec.allOnes 8) : formatI0 op (fieldImm w) = w := by
  have hop := toNat_opcode_of_mask h hm
  have h16 := toNat_reserved_of_mask h 16 8 (by decide) hm16
  apply BitVec.eq_of_toNat_eq
  rw [toNat_formatI0, fieldImm_toNat]
  omega

theorem formatRM_of_mask (h : w &&& 0xFF8FFF00#32 = formatN op) : formatRM op (fieldRd w) (fieldAddr w) = w := by
  have hop := toNat_opcode_of_mask h (by decide)
  have h23 := toNat_reserved_of_mask h 23 1 (by decide) (by decide)
  have h8 := toNat_reserved_of_mask h 8 12 (by decide) (by decide)
  apply BitVec.eq_of_toNat_eq
  rw [toNat_formatRM, fieldRd_val, fieldAddr_toNat]
  omega

theorem formatRX_of_mask (h : w &&& 0xFF8FFFF0#32 = formatN op) : formatRX op (fieldRd w) (fieldIdx w) = w := by
  have hop := toNat_opcode_of_mask h (by decide)
  have h23 := toNat_reserved_of_mask h 23 1 (by decide) (by decide)
  have h4 := toNat_reserved_of_mask h 4 16 (by decide) (by decide)
  apply BitVec.eq_of_toNat_eq
  rw [toNat_formatRX, fieldRd_val, fieldIdx_val]
  omega

theorem formatX_of_mask (h : w &&& 0xFFFFFFF0#32 = formatN op) : formatX op (fieldIdx w) = w := by
  have hop := toNat_opcode_of_mask h (by decide)
  have h4 := toNat_reserved_of_mask h 4 20 (by decide) (by decide)
  apply BitVec.eq_of_toNat_eq
  rw [toNat_formatX, fieldIdx_val]
  omega

theorem formatM_of_mask (h : w &&& 0xFFFFC000#32 = formatN op) : formatM op (fieldAddr w) (fieldLen w) = w := by
  have hop := toNat_opcode_of_mask h (by decide)
  have h14 := toNat_reserved_of_mask h 14 10 (by decide) (by decide)
  apply BitVec.eq_of_toNat_eq
  rw [toNat_formatM, fieldAddr_toNat, fieldLen_val]
  omega

/-- `CH.ST`: the `len` field is reserved too. -/
theorem formatM_zero_of_mask (h : w &&& 0xFFFFFF00#32 = formatN op) : formatM op (fieldAddr w) 0 = w := by
  have hop := toNat_opcode_of_mask h (by decide)
  have h8 := toNat_reserved_of_mask h 8 16 (by decide) (by decide)
  apply BitVec.eq_of_toNat_eq
  rw [toNat_formatM, fieldAddr_toNat]
  simp only [Fin.val_zero]
  omega

/-- `CFG`: `imm16[15:5]` is reserved. -/
theorem fieldImm_high_of_mask (h : w &&& 0xFFFFFFE0#32 = formatN op) : (fieldImm w).extractLsb' 5 11 = 0#11 := by
  have h5 := toNat_reserved_of_mask h 5 11 (by decide) (by decide)
  apply BitVec.eq_of_toNat_eq
  rw [BitVec.extractLsb'_toNat, Nat.shiftRight_eq_div_pow, fieldImm_toNat, BitVec.toNat_ofNat]
  omega

end Formats

/-! ### Each row gives well-formed commands, and their words (30_encoding.md R74 to R76) -/

/-- From each of its words the row gives a well-formed command, whose word it is. -/
def Row.RoundTrips (r : Row) : Prop :=
  ∀ w : CommandWord, w &&& r.mask = r.bits → (r.build w).WellFormed ∧ encode (r.build w) = w

theorem nopRows_roundTrip : ∀ r ∈ nopRows, r.RoundTrips := by
  simp only [nopRows, List.forall_mem_singleton]
  exact fun w h => ⟨rfl, formatN_of_mask h⟩

theorem gfRows_roundTrip : ∀ r ∈ gfRows, r.RoundTrips := by
  simp only [gfRows, List.forall_mem_cons, List.not_mem_nil, IsEmpty.forall_iff, implies_true, and_true]
  exact ⟨fun w h => ⟨rfl, formatI_of_mask h⟩, fun w h => ⟨rfl, formatR2_of_mask h⟩, fun w h => ⟨rfl, formatR3_of_mask h⟩,
    fun w h => ⟨rfl, formatR2_of_mask h⟩, fun w h => ⟨rfl, formatR3_of_mask h⟩, fun w h => ⟨rfl, formatR3_of_mask h⟩,
    fun w h => ⟨rfl, formatR3_of_mask h⟩, fun w h => ⟨rfl, formatR3_of_mask h⟩, fun w h => ⟨rfl, formatR2_of_mask h⟩,
    fun w h => ⟨rfl, formatR3_of_mask h⟩, fun w h => ⟨rfl, formatRM_of_mask h⟩, fun w h => ⟨rfl, formatRM_of_mask h⟩⟩

theorem sboxRows_roundTrip : ∀ r ∈ sboxRows, r.RoundTrips := by
  simp only [sboxRows, List.forall_mem_cons, List.not_mem_nil, IsEmpty.forall_iff, implies_true, and_true]
  exact ⟨fun w h => ⟨rfl, formatI0_of_mask h (by decide) (by decide)⟩,
    fun w h => ⟨rfl, formatI0_of_mask h (by decide) (by decide)⟩, fun w h => ⟨rfl, formatN_of_mask h⟩,
    fun w h => ⟨rfl, formatR2_of_mask h⟩, fun w h => ⟨rfl, formatR2_of_mask h⟩, fun w h => ⟨rfl, formatR2_of_mask h⟩,
    fun w h => ⟨rfl, formatR2_of_mask h⟩⟩

theorem stateRows_roundTrip : ∀ r ∈ stateRows, r.RoundTrips := by
  simp only [stateRows, List.forall_mem_cons, List.not_mem_nil, IsEmpty.forall_iff, implies_true, and_true]
  exact ⟨fun w h => ⟨rfl, formatM_of_mask h⟩, fun w h => ⟨rfl, formatM_of_mask h⟩, fun w h => ⟨rfl, formatRX_of_mask h⟩,
    fun w h => ⟨rfl, formatRX_of_mask h⟩, fun w h => ⟨rfl, formatN_of_mask h⟩, fun w h => ⟨rfl, formatN_of_mask h⟩,
    fun w h => ⟨rfl, formatN_of_mask h⟩, fun w h => ⟨rfl, formatN_of_mask h⟩, fun w h => ⟨rfl, formatN_of_mask h⟩,
    fun w h => ⟨rfl, formatN_of_mask h⟩, fun w h => ⟨rfl, formatX_of_mask h⟩, fun w h => ⟨rfl, formatM_of_mask h⟩⟩

theorem cipherRows_roundTrip : ∀ r ∈ cipherRows, r.RoundTrips := by
  simp only [cipherRows, List.forall_mem_cons, List.not_mem_nil, IsEmpty.forall_iff, implies_true, and_true]
  exact ⟨fun w h => ⟨beq_iff_eq.mpr (fieldImm_high_of_mask (op := 0x40#8) h), formatI0_of_mask h (by decide) (by decide)⟩,
    fun w h => ⟨rfl, formatM_of_mask h⟩, fun w h => ⟨rfl, formatM_of_mask h⟩, fun w h => ⟨rfl, formatN_of_mask h⟩,
    fun w h => ⟨rfl, formatN_of_mask h⟩, fun w h => ⟨rfl, formatN_of_mask h⟩, fun w h => ⟨rfl, formatN_of_mask h⟩,
    fun w h => ⟨rfl, formatN_of_mask h⟩, fun w h => ⟨rfl, formatM_zero_of_mask h⟩⟩

theorem commandRows_roundTrip : ∀ r ∈ commandRows, r.RoundTrips := by
  simp only [commandRows, List.forall_mem_append]
  exact ⟨⟨⟨⟨nopRows_roundTrip, gfRows_roundTrip⟩, sboxRows_roundTrip⟩, stateRows_roundTrip⟩, cipherRows_roundTrip⟩

/-- Settles O2: the command comes from a row the word matches, and that row round-trips. -/
theorem encodeOfDecodeGivesTheWord : Obligations.EncodeOfDecodeGivesTheWord := by
  intro w i h
  obtain ⟨r, hr, hmatch, rfl⟩ := exists_match_of_decodeWord h
  exact commandRows_roundTrip r hr w hmatch

/-- Settles O3: the two rows are one. -/
theorem opcodeRowsAreDisjoint : Obligations.OpcodeRowsAreDisjoint := by
  intro w r q hr hq hwr hwq
  rw [row_unique hr hq hwr hwq]

/-! ### Illegal words (30_encoding.md R75) -/

/-- In a running state a word of no row takes `ILLEGAL_CMD`. -/
theorem issueWord_of_no_match {w : CommandWord} {s : State} (hrun : s.Running)
    (h : ∀ r ∈ commandRows, w &&& r.mask ≠ r.bits) : issueWord w s = .next (faulted s 6) := by
  rw [issueWord, decodeWord_of_no_match h]
  exact runCommand_error hrun .illegalCmd

/-- Settles O4: a word of no row is rejected and any other decodes. The last two clauses hold of the word because the
matches and masks of the 41 rows, a finite table, hold them: the opcodes there, and the reserved bits 1 in the mask and
0 in the match. -/
theorem wordsOutsideTheOpcodeMapAreIllegal : Obligations.WordsOutsideTheOpcodeMapAreIllegal := by
  refine ⟨fun w s hrun h => issueWord_of_no_match hrun h, fun w => ?_, fun w r hr h => ?_, fun w r hr h => ?_⟩
  · by_cases hmatch : ∃ r ∈ commandRows, w &&& r.mask = r.bits
    · obtain ⟨r, hr, hw⟩ := hmatch
      exact .inl ⟨r.build w, decodeWord_of_match hr hw⟩
    · exact .inr (by simpa using hmatch)
  · rw [opcode_of_match hr h]
    clear h
    revert r
    decide
  · exact ⟨fun hrd => getLsbD_eq_false_of_mask h (by clear h; revert r; decide),
      fun hra => getLsbD_eq_false_of_mask h (by clear h; revert r; decide),
      fun hrb => getLsbD_eq_false_of_mask h (by clear h; revert r; decide),
      fun hcfg => extractLsb'_eq_zero_of_mask h (by clear h; revert r; decide),
      fun hchSt => extractLsb'_eq_zero_of_mask h (by clear h; revert r; decide)⟩

/-! ### Words of the spec -/

/-- A number whose word is the word of a well-formed command decodes to that command. -/
theorem decodes_of_encode {n : Nat} (i : Instr) (hi : i.WellFormed) (h : BitVec.ofNat 32 n = encode i) : Decodes n i := by
  rw [Decodes, h]
  exact decodeOfEncodeGivesTheCommand i hi

/-- Settles O5: each is the word of its command, by evaluation of the encoder. -/
theorem wordsWrittenOutFromTheSpecDecode : Obligations.WordsWrittenOutFromTheSpecDecode :=
  ⟨decodes_of_encode .nop rfl rfl, decodes_of_encode (.gfLi 3 0x011B) rfl rfl, decodes_of_encode (.gfMov 1 0) rfl rfl,
    decodes_of_encode (.gfMul 2 0 1) rfl rfl, decodes_of_encode (.gfLdb 5 0xFE) rfl rfl,
    decodes_of_encode (.seedLo 0x64) rfl rfl, decodes_of_encode (.sbInv 2 1) rfl rfl,
    decodes_of_encode (.stLd 0x20 16) rfl rfl, decodes_of_encode (.stSet 3 13) rfl rfl,
    decodes_of_encode (.ark 10) rfl rfl, decodes_of_encode (.cfg 0x0E) rfl rfl, decodes_of_encode (.rkSt 0x50 1) rfl rfl,
    decodes_of_encode .decb rfl rfl, decodes_of_encode (.chSt 0x60) rfl rfl⟩

end Sys2Proof

/-! PROOFS of the family 40_gf256.md. First the reading of a natural number as a polynomial over the field of two
elements and what each function of the field unit is under it; then the residues modulo m(x), in which the laws of the
unit hold; then the extended Euclidean algorithm and the inverse; then the obligations O19 to O32. -/

namespace Sys2Proof.Machine

open Sys2Proof Sys2Proof.Stated Polynomial

/-! ### A number as a polynomial over the field of two elements (00_scope.md R10) -/

theorem zmod_two_eq_one {c : ZMod 2} (h : c ≠ 0) : c = 1 := by revert c; decide

/-- The polynomial whose coefficients are the bits of `n`. -/
noncomputable def toPoly (n : Nat) : (ZMod 2)[X] := ∑ i ∈ n.bitIndices.toFinset, X ^ i

theorem coeff_toPoly (n i : Nat) : (toPoly n).coeff i = if n.testBit i then 1 else 0 := by
  simp [toPoly, coeff_X_pow]

/-- The reading is determined by the coefficients. -/
theorem eq_toPoly {φ : Nat → (ZMod 2)[X]} (h : ∀ n i : Nat, (φ n).coeff i = if n.testBit i then 1 else 0) :
    φ = toPoly := by
  funext n; ext i; rw [h, coeff_toPoly]

theorem toPoly_injective : Function.Injective toPoly := by
  intro m n h
  refine Nat.eq_of_testBit_eq fun i => ?_
  have hi := congrArg (coeff · i) h
  simp only [coeff_toPoly] at hi
  cases hm : m.testBit i <;> cases hn : n.testBit i <;> simp [hm, hn] at hi ⊢

/-- Every polynomial over the field of two elements is the reading of a number. -/
theorem toPoly_surjective : Function.Surjective toPoly := by
  intro p
  refine ⟨∑ i ∈ p.support, 2 ^ i, ?_⟩
  ext i
  rw [toPoly, Finset.toFinset_bitIndices_sum_two_pow, finsetSum_coeff]
  by_cases hi : p.coeff i = 0
  · simp [coeff_X_pow, hi]
  · simp [coeff_X_pow, zmod_two_eq_one hi]

@[simp] theorem toPoly_zero : toPoly 0 = 0 := by simp [toPoly]

@[simp] theorem toPoly_one : toPoly 1 = 1 := by simp [toPoly]

@[simp] theorem toPoly_eq_zero {n : Nat} : toPoly n = 0 ↔ n = 0 := by rw [← toPoly_zero, toPoly_injective.eq_iff]

/-- Addition is the exclusive or (R100). -/
theorem toPoly_xor (a b : Nat) : toPoly (a ^^^ b) = toPoly a + toPoly b := by
  ext i
  simp only [coeff_toPoly, coeff_add, Nat.testBit_xor]
  cases a.testBit i <;> cases b.testBit i <;> decide

theorem toPoly_shiftLeft (a k : Nat) : toPoly (a <<< k) = toPoly a * X ^ k := by
  ext i
  simp only [coeff_toPoly, coeff_mul_X_pow', Nat.testBit_shiftLeft]
  by_cases hk : k ≤ i <;> simp [hk]

/-- The lowest bit and the rest of the number. -/
theorem toPoly_eq_shiftRight (b : Nat) :
    toPoly b = toPoly (b >>> 1) * X + if b.testBit 0 then 1 else 0 := by
  have hdiv : divX (toPoly b) = toPoly (b >>> 1) := by
    ext i; rw [coeff_divX, coeff_toPoly, coeff_toPoly, Nat.testBit_shiftRight, Nat.add_comm]
  conv_lhs => rw [← divX_mul_X_add (toPoly b), hdiv, coeff_toPoly]
  split <;> simp

theorem toPoly_two_mul (a : Nat) : toPoly (2 * a) = toPoly a * X := by
  have h := toPoly_shiftLeft a 1
  rwa [Nat.shiftLeft_eq, pow_one, pow_one, mul_comm a 2] at h

theorem toPoly_two_mul_add_one (a : Nat) : toPoly (2 * a + 1) = toPoly a * X + 1 := by
  have hhalf : (2 * a + 1) >>> 1 = a := by rw [Nat.shiftRight_eq_div_pow]; omega
  have hlow : (2 * a + 1).testBit 0 = true := by simp
  rw [toPoly_eq_shiftRight, hhalf, if_pos hlow]

/-! ### Degrees (R101) -/

theorem polyDeg_lt_iff {a n : Nat} (ha : a ≠ 0) : polyDeg a < n ↔ a < 2 ^ n := Nat.log2_lt ha

theorem polyDeg_le_of_lt {a n : Nat} (ha : a < 2 ^ (n + 1)) : polyDeg a ≤ n := by
  by_cases hzero : a = 0
  · subst hzero; exact Nat.zero_le n
  · exact Nat.lt_succ_iff.mp ((polyDeg_lt_iff hzero).mpr ha)

theorem lt_two_pow_polyDeg (a : Nat) : a < 2 ^ (polyDeg a + 1) := Nat.lt_log2_self

theorem two_pow_polyDeg_le {a : Nat} (ha : a ≠ 0) : 2 ^ polyDeg a ≤ a := Nat.log2_self_le ha

theorem testBit_polyDeg {a : Nat} (ha : a ≠ 0) : a.testBit (polyDeg a) = true := Nat.testBit_log2 ha

theorem testBit_of_polyDeg_lt {a i : Nat} (h : polyDeg a < i) : a.testBit i = false :=
  Nat.testBit_lt_two_pow ((lt_two_pow_polyDeg a).trans_le (Nat.pow_le_pow_right (by decide) h))

theorem degree_toPoly_lt {a n : Nat} : (toPoly a).degree < n ↔ a < 2 ^ n := by
  rw [degree_lt_iff_coeff_zero]
  constructor
  · exact fun h => Nat.lt_pow_two_of_testBit a fun i hi => by simpa [coeff_toPoly] using h i hi
  · intro h i hi
    have hbit : a.testBit i = false := Nat.testBit_lt_two_pow (h.trans_le (Nat.pow_le_pow_right (by decide) hi))
    simp [coeff_toPoly, hbit]

theorem degree_toPoly {a : Nat} (ha : a ≠ 0) : (toPoly a).degree = polyDeg a := by
  refine le_antisymm (Order.lt_succ_iff.mp ?_) (le_degree_of_ne_zero ?_)
  · exact degree_toPoly_lt.mpr (lt_two_pow_polyDeg a)
  · simp [coeff_toPoly, testBit_polyDeg ha]

/-- A nonzero polynomial over the field of two elements has leading coefficient 1. -/
theorem monic_toPoly {a : Nat} (ha : a ≠ 0) : (toPoly a).Monic :=
  zmod_two_eq_one (leadingCoeff_ne_zero.mpr (by simpa using ha))

/-- The two ways to bound a remainder: 0 or of degree below `n`, and below `2 ^ n`. -/
theorem eq_zero_or_polyDeg_lt_iff (r n : Nat) : (r = 0 ∨ polyDeg r < n) ↔ r < 2 ^ n := by
  by_cases hr : r = 0
  · simp [hr]
  · simp [hr, polyDeg_lt_iff hr]

/-! ### The carry-less product (R105) -/

theorem toPoly_clmulLoop (fuel r a b : Nat) (hb : b < 2 ^ fuel) :
    toPoly (clmulLoop fuel r a b) = toPoly r + toPoly a * toPoly b := by
  induction fuel generalizing r a b with
  | zero =>
    obtain rfl : b = 0 := by omega
    simp [clmulLoop]
  | succ fuel ih =>
    unfold clmulLoop
    split
    · have hhalf : b >>> 1 < 2 ^ fuel := by rw [Nat.shiftRight_eq_div_pow]; omega
      rw [ih _ _ _ hhalf, toPoly_shiftLeft, toPoly_eq_shiftRight b]
      split
      · rw [toPoly_xor]; ring
      · ring
    · next hzero => simp [not_not.mp hzero]

/-- `clmul` is the product of polynomials. -/
@[simp] theorem toPoly_clmul (a b : Nat) : toPoly (clmul a b) = toPoly a * toPoly b := by
  rw [clmul, toPoly_clmulLoop _ _ _ _ (lt_two_pow_polyDeg b), toPoly_zero, zero_add]

theorem polyDeg_clmul {a b : Nat} (ha : a ≠ 0) (hb : b ≠ 0) : polyDeg (clmul a b) = polyDeg a + polyDeg b := by
  have hne : clmul a b ≠ 0 := by rw [← toPoly_eq_zero.ne, toPoly_clmul]; simp [ha, hb]
  have h := degree_toPoly hne
  rw [toPoly_clmul, degree_mul, degree_toPoly ha, degree_toPoly hb] at h
  exact_mod_cast h.symm

theorem clmul_lt {a b m n : Nat} (ha : a < 2 ^ (m + 1)) (hb : b < 2 ^ (n + 1)) : clmul a b < 2 ^ (m + n + 1) := by
  by_cases hzero : clmul a b = 0
  · rw [hzero]; exact Nat.two_pow_pos _
  · have ha0 : a ≠ 0 := fun h => hzero (toPoly_injective (by simp [h]))
    have hb0 : b ≠ 0 := fun h => hzero (toPoly_injective (by simp [h]))
    rw [← polyDeg_lt_iff ha0] at ha
    rw [← polyDeg_lt_iff hb0] at hb
    rw [← polyDeg_lt_iff hzero, polyDeg_clmul ha0 hb0]
    omega

/-- One polynomial divides another when `clmul` gives it back from some number. -/
theorem toPoly_dvd_iff {a b : Nat} : toPoly b ∣ toPoly a ↔ ∃ k, a = clmul k b := by
  constructor
  · rintro ⟨p, hp⟩
    obtain ⟨k, rfl⟩ := toPoly_surjective p
    exact ⟨k, toPoly_injective (by rw [hp, toPoly_clmul, mul_comm])⟩
  · rintro ⟨k, rfl⟩
    rw [toPoly_clmul]
    exact dvd_mul_left ..

/-! ### Long division (R102, R104) -/

/-- Two numbers with the same highest bit cancel it. -/
theorem xor_lt_of_polyDeg_eq {a c : Nat} (ha : a ≠ 0) (hc : c ≠ 0) (h : polyDeg c = polyDeg a) :
    a ^^^ c < 2 ^ polyDeg a := by
  refine Nat.lt_pow_two_of_testBit _ fun i hi => ?_
  rw [Nat.testBit_xor]
  obtain rfl | hlt := hi.eq_or_lt
  · rw [testBit_polyDeg ha, ← h, testBit_polyDeg hc]; rfl
  · rw [testBit_of_polyDeg_lt hlt, testBit_of_polyDeg_lt (h ▸ hlt)]; rfl

theorem polyDeg_shiftLeft {b : Nat} (hb : b ≠ 0) (k : Nat) : polyDeg (b <<< k) = polyDeg b + k := by
  have hshift : b <<< k ≠ 0 := by simp [Nat.shiftLeft_eq, hb]
  have h := degree_toPoly hshift
  rw [toPoly_shiftLeft, degree_mul, degree_X_pow, degree_toPoly hb] at h
  exact_mod_cast h.symm

/-- One pass of the division takes the highest bit of the dividend away. -/
theorem divmod_pass_lt {a b : Nat} (ha : a ≠ 0) (hb : b ≠ 0) (h : polyDeg b ≤ polyDeg a) :
    a ^^^ (b <<< (polyDeg a - polyDeg b)) < 2 ^ polyDeg a := by
  refine xor_lt_of_polyDeg_eq ha (by simp [Nat.shiftLeft_eq, hb]) ?_
  rw [polyDeg_shiftLeft hb]; omega

/-- What the loop of `divmod` keeps, and what it has reached when its passes are as many as the dividend has bits. -/
theorem divmodLoop_spec {b : Nat} (hb : b ≠ 0) (fuel q a : Nat) (ha : a < 2 ^ fuel) :
    toPoly (divmodLoop b fuel q a).1 * toPoly b + toPoly (divmodLoop b fuel q a).2 = toPoly q * toPoly b + toPoly a ∧
      (divmodLoop b fuel q a).2 < 2 ^ polyDeg b ∧ (divmodLoop b fuel q a).2 ≤ a := by
  induction fuel generalizing q a with
  | zero =>
    obtain rfl : a = 0 := by omega
    exact ⟨rfl, Nat.two_pow_pos _, le_rfl⟩
  | succ fuel ih =>
    unfold divmodLoop
    split
    · next h =>
      obtain ⟨hzero, hdeg⟩ := h
      have hpass := divmod_pass_lt hzero hb hdeg
      have hlog : polyDeg a ≤ fuel := polyDeg_le_of_lt ha
      obtain ⟨hkeep, hsmall, hle⟩ := ih (q ^^^ (1 <<< (polyDeg a - polyDeg b))) _
        (hpass.trans_le (Nat.pow_le_pow_right (by decide) hlog))
      refine ⟨hkeep.trans ?_, hsmall, hle.trans (hpass.le.trans (two_pow_polyDeg_le hzero))⟩
      rw [toPoly_xor, toPoly_xor, toPoly_shiftLeft, toPoly_shiftLeft, toPoly_one]
      linear_combination (toPoly b * X ^ (polyDeg a - polyDeg b)) * CharTwo.two_eq_zero (R := (ZMod 2)[X])
    · next h =>
      refine ⟨rfl, ?_, le_rfl⟩
      rw [← eq_zero_or_polyDeg_lt_iff]
      exact or_iff_not_imp_left.mpr fun hzero => not_le.mp fun hdeg => h ⟨hzero, hdeg⟩

/-- The remainder is 0 or of lower degree than the divisor. -/
theorem polyRem_lt (a : Nat) {b : Nat} (hb : b ≠ 0) : polyRem a b < 2 ^ polyDeg b :=
  (divmodLoop_spec hb _ 0 a (lt_two_pow_polyDeg a)).2.1

theorem polyRem_le (a : Nat) {b : Nat} (hb : b ≠ 0) : polyRem a b ≤ a :=
  (divmodLoop_spec hb _ 0 a (lt_two_pow_polyDeg a)).2.2

theorem toPoly_divmod (a : Nat) {b : Nat} (hb : b ≠ 0) :
    toPoly (divmod a b).1 * toPoly b + toPoly (polyRem a b) = toPoly a := by
  have h := (divmodLoop_spec hb _ 0 a (lt_two_pow_polyDeg a)).1
  rwa [toPoly_zero, zero_mul, zero_add] at h

/-- The division is the Euclidean one: its result is the only quotient with a remainder below the divisor. -/
theorem div_and_mod_of_toPoly {a b q r : Nat} (hb : b ≠ 0) (h : toPoly q * toPoly b + toPoly r = toPoly a)
    (hr : r < 2 ^ polyDeg b) : toPoly a / toPoly b = toPoly q ∧ toPoly a % toPoly b = toPoly r := by
  rw [← divByMonic_eq_div _ (monic_toPoly hb), ← modByMonic_eq_mod _ (monic_toPoly hb)]
  refine div_modByMonic_unique _ _ (monic_toPoly hb) ⟨by rw [← h]; ring, ?_⟩
  rw [degree_toPoly hb]
  exact degree_toPoly_lt.mpr hr

theorem toPoly_quotient (a : Nat) {b : Nat} (hb : b ≠ 0) : toPoly (divmod a b).1 = toPoly a / toPoly b :=
  (div_and_mod_of_toPoly hb (toPoly_divmod a hb) (polyRem_lt a hb)).1.symm

theorem toPoly_polyRem (a : Nat) {b : Nat} (hb : b ≠ 0) : toPoly (polyRem a b) = toPoly a % toPoly b :=
  (div_and_mod_of_toPoly hb (toPoly_divmod a hb) (polyRem_lt a hb)).2.symm

theorem eq_clmul_divmod (a : Nat) {b : Nat} (hb : b ≠ 0) : a = clmul (divmod a b).1 b ^^^ polyRem a b :=
  toPoly_injective (by rw [toPoly_xor, toPoly_clmul, toPoly_divmod a hb])

theorem divmod_unique {a b q r : Nat} (hb : b ≠ 0) (h : a = clmul q b ^^^ r) (hr : r < 2 ^ polyDeg b) :
    divmod a b = (q, r) := by
  have hkeep : toPoly q * toPoly b + toPoly r = toPoly a := by rw [h, toPoly_xor, toPoly_clmul]
  obtain ⟨hq, hr⟩ := div_and_mod_of_toPoly hb hkeep hr
  exact Prod.ext (toPoly_injective ((toPoly_quotient a hb).trans hq))
    (toPoly_injective ((toPoly_polyRem a hb).trans hr))

/-! ### The field product and the residues modulo m(x) (R105, R108) -/

theorem modulus_ne_zero : modulus ≠ 0 := by decide

theorem polyDeg_modulus : polyDeg modulus = 8 := by decide +kernel

/-- `m(x)` (00_scope.md R6). -/
theorem toPoly_modulus : toPoly modulus = X ^ 8 + X ^ 4 + X ^ 3 + X + 1 := by
  have hbits : modulus = 1 <<< 8 ^^^ 1 <<< 4 ^^^ 1 <<< 3 ^^^ 1 <<< 1 ^^^ 1 := by decide
  simp only [hbits, toPoly_xor, toPoly_shiftLeft, toPoly_one, one_mul, pow_one]

theorem polyRem_modulus_lt (a : Nat) : polyRem a modulus < 256 := by
  have h := polyRem_lt a modulus_ne_zero
  rwa [polyDeg_modulus] at h

theorem polyMul_lt (a b : Nat) : polyMul a b < 256 := polyRem_modulus_lt _

/-- `mul` is the product modulo m(x). -/
theorem toPoly_polyMul (a b : Nat) : toPoly (polyMul a b) = toPoly a * toPoly b % toPoly modulus := by
  rw [polyMul, toPoly_polyRem _ modulus_ne_zero, toPoly_clmul]

/-- The element that `a` stands for in the ring of polynomials modulo m(x). -/
noncomputable def residue (a : Poly) : AdjoinRoot (toPoly modulus) := AdjoinRoot.mk _ (toPoly a)

@[simp] theorem residue_zero : residue 0 = 0 := by simp [residue]

@[simp] theorem residue_one : residue 1 = 1 := by simp [residue]

@[simp] theorem residue_modulus : residue modulus = 0 := AdjoinRoot.mk_self

theorem residue_eq_zero_iff {a : Nat} : residue a = 0 ↔ toPoly modulus ∣ toPoly a := AdjoinRoot.mk_eq_zero

@[simp] theorem residue_xor (a b : Nat) : residue (a ^^^ b) = residue a + residue b := by
  rw [residue, toPoly_xor, map_add]; rfl

@[simp] theorem residue_clmul (a b : Nat) : residue (clmul a b) = residue a * residue b := by
  rw [residue, toPoly_clmul, map_mul]; rfl

/-- The ring has characteristic 2, as addition is the exclusive or. -/
theorem residue_add_self (a : Nat) : residue a + residue a = 0 := by rw [← residue_xor, Nat.xor_self, residue_zero]

theorem residue_divmod (a : Nat) {b : Nat} (hb : b ≠ 0) :
    residue a = residue (divmod a b).1 * residue b + residue (polyRem a b) := by
  conv_lhs => rw [eq_clmul_divmod a hb]
  rw [residue_xor, residue_clmul]

@[simp] theorem residue_polyRem (a : Nat) : residue (polyRem a modulus) = residue a := by
  rw [residue_divmod a modulus_ne_zero, residue_modulus, mul_zero, zero_add]

@[simp] theorem residue_polyMul (a b : Nat) : residue (polyMul a b) = residue a * residue b := by
  rw [polyMul, residue_polyRem, residue_clmul]

/-- No two numbers below 256 have the same residue. -/
theorem eq_of_residue_eq {a b : Nat} (ha : a < 256) (hb : b < 256) (h : residue a = residue b) : a = b := by
  have hdvd : toPoly modulus ∣ toPoly (a ^^^ b) := by
    rw [← residue_eq_zero_iff, residue_xor, h, residue_add_self]
  have hdeg : (toPoly (a ^^^ b)).degree < (toPoly modulus).degree := by
    rw [degree_toPoly modulus_ne_zero, polyDeg_modulus]
    exact degree_toPoly_lt.mpr (Nat.xor_lt_two_pow ha hb)
  simpa using eq_zero_of_dvd_of_degree_lt hdvd hdeg

/-- The reduction modulo m(x) is the one number below 256 with the same residue. -/
theorem polyRem_modulus_eq {a r : Nat} (hr : r < 256) (h : residue a = residue r) : polyRem a modulus = r :=
  eq_of_residue_eq (polyRem_modulus_lt a) hr (by rw [residue_polyRem, h])

theorem polyRem_modulus_zero : polyRem 0 modulus = 0 := polyRem_modulus_eq (by decide) rfl

theorem polyRem_modulus_one : polyRem 1 modulus = 1 := polyRem_modulus_eq (by decide) rfl

theorem polyMul_eq {a b r : Nat} (hr : r < 256) (h : residue a * residue b = residue r) : polyMul a b = r :=
  polyRem_modulus_eq hr (by rw [residue_clmul, h])

theorem polyRem_modulus_eq_zero_iff {a : Nat} : polyRem a modulus = 0 ↔ residue a = 0 := by
  rw [← residue_zero]
  exact ⟨fun h => by rw [← residue_polyRem, h], polyRem_modulus_eq (by decide)⟩

/-- The product modulo m(x) and the number it reduces. -/
theorem clmul_eq_xor_polyMul (a b : Nat) : clmul a b = clmul (divmod (clmul a b) modulus).1 modulus ^^^ polyMul a b :=
  eq_clmul_divmod _ modulus_ne_zero

/-! ### The laws of the product (R108) -/

theorem residue_two_mul (a : Nat) : residue (2 * a) = residue a * residue 2 := by
  rw [residue, residue, residue, ← map_mul, toPoly_two_mul, toPoly_two_mul 1]
  simp

theorem polyMul_comm (a b : Nat) : polyMul a b = polyMul b a :=
  polyMul_eq (polyMul_lt ..) (by rw [residue_polyMul, mul_comm])

theorem polyMul_assoc (a b c : Nat) : polyMul (polyMul a b) c = polyMul a (polyMul b c) :=
  polyMul_eq (polyMul_lt ..) (by simp only [residue_polyMul, mul_assoc])

theorem polyMul_polyAdd (a b c : Nat) : polyMul a (polyAdd b c) = polyAdd (polyMul a b) (polyMul a c) :=
  polyMul_eq (Nat.xor_lt_two_pow (n := 8) (polyMul_lt ..) (polyMul_lt ..))
    (by simp only [polyAdd, residue_xor, residue_polyMul, mul_add])

theorem polyMul_one (a : Nat) : polyMul a 1 = polyRem a modulus := polyMul_eq (polyRem_modulus_lt a) (by simp)

theorem polyMul_zero (a : Nat) : polyMul a 0 = 0 := polyMul_eq (by decide) (by simp)

/-- When bit 7 is set, the shift and the modulus have the same highest bit, which they cancel. -/
theorem shift_reduce_lt {a : Nat} (ha : a < 256) : (a <<< 1) ^^^ (if a.testBit 7 then modulus else 0) < 256 := by
  rcases Nat.lt_or_ge a 128 with hlow | hhigh
  · have hbit : a.testBit 7 = false := Nat.testBit_lt_two_pow hlow
    rw [hbit, if_neg Bool.false_ne_true, Nat.xor_zero, Nat.shiftLeft_eq]
    omega
  · have hne : a ≠ 0 := by omega
    have hdeg : polyDeg a = 7 :=
      le_antisymm (polyDeg_le_of_lt ha) (not_lt.mp fun h => hhigh.not_gt ((polyDeg_lt_iff hne).mp h))
    have hshift : polyDeg (a <<< 1) = 8 := by rw [polyDeg_shiftLeft hne, hdeg]
    have hbit : a.testBit 7 = true := hdeg ▸ testBit_polyDeg hne
    have hlt := xor_lt_of_polyDeg_eq (a := a <<< 1) (by simp [Nat.shiftLeft_eq, hne]) modulus_ne_zero
      (polyDeg_modulus.trans hshift.symm)
    rw [hshift] at hlt
    rwa [if_pos hbit]

/-- Multiplication by `x` is the shift, reduced. -/
theorem polyMul_two {a : Nat} (ha : a < 256) : polyMul a 2 = (a <<< 1) ^^^ (if a.testBit 7 then modulus else 0) := by
  refine polyMul_eq (shift_reduce_lt ha) ?_
  rw [residue_xor, Nat.shiftLeft_eq, pow_one, mul_comm a 2, residue_two_mul]
  split <;> simp

/-! ### The reduced quotient (R103) -/

theorem polyQuot_of_le {a b : Nat} (h : (divmod a b).1 ≤ 255) : polyQuot a b = (divmod a b).1 := if_neg (not_lt.mpr h)

theorem polyQuot_of_gt {a b : Nat} (h : 255 < (divmod a b).1) : polyQuot a b = polyRem (divmod a b).1 modulus :=
  if_pos h

theorem exists_polyQuot_of_gt {a b : Nat} (h : 255 < (divmod a b).1) :
    ∃ k, (divmod a b).1 = clmul k modulus ^^^ polyQuot a b := by
  rw [polyQuot_of_gt h]
  exact ⟨_, eq_clmul_divmod _ modulus_ne_zero⟩

theorem polyQuot_lt (a b : Nat) : polyQuot a b < 256 := by
  rcases Nat.lt_or_ge 255 (divmod a b).1 with h | h
  · rw [polyQuot_of_gt h]; exact polyRem_modulus_lt _
  · rw [polyQuot_of_le h]; exact Nat.lt_succ_of_le h

/-- The reduction leaves the quotient what it is modulo m(x). -/
@[simp] theorem residue_polyQuot (a b : Nat) : residue (polyQuot a b) = residue (divmod a b).1 := by
  rcases Nat.lt_or_ge 255 (divmod a b).1 with h | h
  · rw [polyQuot_of_gt h, residue_polyRem]
  · rw [polyQuot_of_le h]

/-! ### The extended Euclidean algorithm (R106) -/

/-- What the loop of `xgcd` keeps for the operands `lo` and `hi`. -/
structure XgcdPair.Inv (lo hi : Poly) (x : XgcdPair) : Prop where
  /-- The pair of remainders has the common divisors of the operands. -/
  divisors : ∀ p : (ZMod 2)[X], p ∣ toPoly x.r0 ∧ p ∣ toPoly x.r1 ↔ p ∣ toPoly lo ∧ p ∣ toPoly hi
  /-- Bézout's identity for the first remainder. -/
  bezout0 : residue lo * residue x.u0 + residue hi * residue x.v0 = residue x.r0
  /-- Bézout's identity for the second remainder. -/
  bezout1 : residue lo * residue x.u1 + residue hi * residue x.v1 = residue x.r1
  r0_le : x.r0 ≤ hi
  r1_le : x.r1 ≤ hi

theorem xgcdStart_inv {lo hi : Nat} (h : lo ≤ hi) : (xgcdStart lo hi).Inv lo hi where
  divisors _ := and_comm
  bezout0 := by simp [xgcdStart]
  bezout1 := by simp [xgcdStart]
  r0_le := le_rfl
  r1_le := h

/-- A pass keeps the invariant: the quotient is reduced, which changes nothing modulo m(x). -/
theorem XgcdPair.Inv.pass {lo hi : Nat} {x : XgcdPair} (h : x.Inv lo hi) (hr : x.r1 ≠ 0) :
    (xgcdPass x).Inv lo hi where
  divisors p := by
    rw [← h.divisors p, xgcdPass, toPoly_polyRem _ hr, and_comm]
    exact and_congr_left EuclideanDomain.dvd_mod_iff
  bezout0 := h.bezout1
  bezout1 := by
    have hdiv := residue_divmod x.r0 hr
    have htwice := residue_add_self (clmul (divmod x.r0 x.r1).1 x.r1)
    simp only [xgcdPass, residue_xor, residue_polyMul, residue_polyQuot, residue_clmul] at htwice ⊢
    linear_combination h.bezout0 + residue (divmod x.r0 x.r1).1 * h.bezout1 + hdiv + htwice
  r0_le := h.r1_le
  r1_le := (polyRem_le _ hr).trans h.r0_le

theorem xgcdLoop_of_done (fuel : Nat) {x : XgcdPair} (h : x.r1 = 0) : xgcdLoop fuel x = x := by
  cases fuel with
  | zero => rfl
  | succ fuel => exact if_neg (not_not.mpr h)

/-- The loop keeps the invariant, and is done after as many passes as the divisor has bits. -/
theorem XgcdPair.Inv.loop {lo hi : Nat} (fuel : Nat) {x : XgcdPair} (h : x.Inv lo hi) (hfuel : x.r1 < 2 ^ fuel) :
    (xgcdLoop fuel x).Inv lo hi ∧ (xgcdLoop fuel x).r1 = 0 := by
  induction fuel generalizing x with
  | zero => exact ⟨h, Nat.lt_one_iff.mp hfuel⟩
  | succ fuel ih =>
    by_cases hr : x.r1 = 0
    · rw [xgcdLoop_of_done _ hr]; exact ⟨h, hr⟩
    · have hdeg : polyDeg x.r1 ≤ fuel := polyDeg_le_of_lt hfuel
      rw [xgcdLoop, if_pos hr]
      exact ih (h.pass hr) ((polyRem_lt _ hr).trans_le (Nat.pow_le_pow_right (by decide) hdeg))

/-- `g` is a greatest common divisor of `a` and `b` and no greater number than both; `ca` and `cb` are its Bézout
coefficients modulo m(x). -/
structure IsXgcd (a b g ca cb : Poly) : Prop where
  divisors : ∀ p : (ZMod 2)[X], p ∣ toPoly g ↔ p ∣ toPoly a ∧ p ∣ toPoly b
  bezout : residue a * residue ca + residue b * residue cb = residue g
  ca_lt : ca < 256
  cb_lt : cb < 256
  g_le : g ≤ max a b

theorem IsXgcd.swap {a b g ca cb : Nat} (h : IsXgcd a b g ca cb) : IsXgcd b a g cb ca where
  divisors p := (h.divisors p).trans and_comm
  bezout := (add_comm ..).trans h.bezout
  ca_lt := h.cb_lt
  cb_lt := h.ca_lt
  g_le := h.g_le.trans (max_comm ..).le

theorem xgcdOrdered_spec {lo hi : Nat} (h : lo ≤ hi) :
    IsXgcd lo hi (xgcdOrdered lo hi).1 (xgcdOrdered lo hi).2.1 (xgcdOrdered lo hi).2.2 := by
  obtain ⟨hinv, hdone⟩ := (xgcdStart_inv h).loop (polyDeg lo + 1) (lt_two_pow_polyDeg lo)
  refine ⟨fun p => ?_, ?_, polyRem_modulus_lt _, polyRem_modulus_lt _,
    hinv.r0_le.trans (le_max_right ..)⟩
  · have hp := hinv.divisors p
    rw [hdone, toPoly_zero] at hp
    exact (and_iff_left (dvd_zero p)).symm.trans hp
  · rw [xgcdOrdered, residue_polyRem, residue_polyRem]
    exact hinv.bezout0

theorem xgcd_of_gt {a b : Nat} (h : a > b) :
    xgcd a b = ((xgcdOrdered b a).1, (xgcdOrdered b a).2.2, (xgcdOrdered b a).2.1) := if_pos h

theorem xgcd_of_le {a b : Nat} (h : a ≤ b) : xgcd a b = xgcdOrdered a b := if_neg (not_lt.mpr h)

/-- `xgcd` swaps its operands into order and the coefficients back. -/
theorem xgcd_spec (a b : Nat) : IsXgcd a b (xgcd a b).1 (xgcd a b).2.1 (xgcd a b).2.2 := by
  rcases Nat.lt_or_ge b a with h | h
  · rw [xgcd_of_gt h]
    exact (xgcdOrdered_spec h.le).swap
  · rw [xgcd_of_le h]
    exact xgcdOrdered_spec h

/-- With the operand 0 the loop makes no pass. -/
theorem xgcdOrdered_zero (b : Nat) : xgcdOrdered 0 b = (b, 0, 1) := by
  rw [xgcdOrdered, xgcdLoop_of_done _ rfl]
  simp only [xgcdStart, polyRem_modulus_zero, polyRem_modulus_one]

/-- With equal operands the loop makes one pass. -/
theorem xgcdOrdered_self {a : Nat} (ha : a ≠ 0) : xgcdOrdered a a = (a, 1, 0) := by
  have hrem : polyRem a a = 0 := toPoly_injective (by rw [toPoly_polyRem a ha, EuclideanDomain.mod_self, toPoly_zero])
  have hloop : xgcdLoop (polyDeg a + 1) (xgcdStart a a) = xgcdPass (xgcdStart a a) := by
    rw [xgcdLoop, if_pos (show (xgcdStart a a).r1 ≠ 0 from ha), xgcdLoop_of_done _ hrem]
  rw [xgcdOrdered, hloop]
  simp only [xgcdPass, xgcdStart, polyRem_modulus_zero, polyRem_modulus_one]

/-! ### The multiplicative inverse (R107) -/

/-- `m(x)` has no divisor of degree 1 to 4, so it is irreducible. -/
theorem irreducible_modulus : Irreducible (toPoly modulus) := by
  have hsmall : ∀ n < 32, 2 ≤ n → polyRem modulus n ≠ 0 := by decide +kernel
  have hdegree : (toPoly modulus).natDegree = 8 := natDegree_eq_of_degree_eq_some (by
    rw [degree_toPoly modulus_ne_zero, polyDeg_modulus])
  rw [(monic_toPoly modulus_ne_zero).irreducible_iff_lt_natDegree_lt fun h => by simp [h] at hdegree]
  intro q hq hrange hdvd
  obtain ⟨n, rfl⟩ := toPoly_surjective q
  have hn : n ≠ 0 := by rintro rfl; simp at hq
  rw [hdegree, natDegree_eq_of_degree_eq_some (degree_toPoly hn), Finset.mem_Ioc] at hrange
  obtain ⟨hpos, hfour⟩ := hrange
  have htwo : 2 ≤ n := (Nat.pow_le_pow_right (by decide) hpos).trans (two_pow_polyDeg_le hn)
  refine hsmall n ((polyDeg_lt_iff (n := 5) hn).mp (Nat.lt_succ_of_le hfour)) htwo (toPoly_injective ?_)
  rw [toPoly_polyRem _ hn, toPoly_zero, EuclideanDomain.mod_eq_zero]
  exact hdvd

theorem eq_one_of_isUnit_toPoly {g : Nat} (h : IsUnit (toPoly g)) : g = 1 := by
  have hg : g ≠ 0 := by rintro rfl; simp at h
  exact toPoly_injective (by rw [(monic_toPoly hg).eq_one_of_isUnit h, toPoly_one])

/-- As m(x) is irreducible, only its multiples have a divisor other than 1 in common with it. -/
theorem xgcd_modulus_eq_one_iff (a : Nat) : (xgcd a modulus).1 = 1 ↔ residue a ≠ 0 := by
  have hspec := xgcd_spec a modulus
  obtain ⟨hdvd_a, hdvd_m⟩ := (hspec.divisors _).mp dvd_rfl
  rw [Ne, residue_eq_zero_iff]
  constructor
  · intro hone hdvd
    have hunit : toPoly modulus ∣ toPoly (xgcd a modulus).1 := (hspec.divisors _).mpr ⟨hdvd, dvd_rfl⟩
    rw [hone, toPoly_one] at hunit
    exact irreducible_modulus.not_dvd_one hunit
  · intro hndvd
    rcases irreducible_modulus.dvd_iff.mp hdvd_m with hunit | hassoc
    · exact eq_one_of_isUnit_toPoly hunit
    · exact absurd (hassoc.dvd.trans hdvd_a) hndvd

theorem polyInv_of_coprime {a : Nat} (h : (xgcd a modulus).1 = 1) : polyInv a = polyRem (xgcd a modulus).2.1 modulus :=
  if_neg (not_not.mpr h)

/-- A multiple of m(x) has no inverse. -/
theorem polyInv_of_residue_eq_zero {a : Nat} (h : residue a = 0) : polyInv a = 0 :=
  if_pos fun hone => (xgcd_modulus_eq_one_iff a).mp hone h

/-- Bézout's identity gives the inverse of anything else. -/
theorem residue_mul_polyInv {a : Nat} (h : residue a ≠ 0) : residue a * residue (polyInv a) = 1 := by
  have hone := (xgcd_modulus_eq_one_iff a).mpr h
  have hbezout := (xgcd_spec a modulus).bezout
  rw [residue_modulus, zero_mul, add_zero, hone, residue_one] at hbezout
  rw [polyInv_of_coprime hone, residue_polyRem, hbezout]

theorem polyInv_lt (a : Nat) : polyInv a < 256 := by
  by_cases h : residue a = 0
  · rw [polyInv_of_residue_eq_zero h]; decide
  · rw [polyInv_of_coprime ((xgcd_modulus_eq_one_iff a).mpr h)]; exact polyRem_modulus_lt _

/-- The inverse depends on the residue alone. -/
theorem polyInv_congr {a b : Nat} (h : residue a = residue b) : polyInv a = polyInv b := by
  by_cases ha : residue a = 0
  · rw [polyInv_of_residue_eq_zero ha, polyInv_of_residue_eq_zero (h ▸ ha)]
  · refine eq_of_residue_eq (polyInv_lt a) (polyInv_lt b) (inv_unique (residue_mul_polyInv ha) ?_)
    rw [h]; exact residue_mul_polyInv (h ▸ ha)

theorem polyMul_polyInv {a : Nat} (h : residue a ≠ 0) : polyMul a (polyInv a) = 1 :=
  polyMul_eq (by decide) (by rw [residue_mul_polyInv h, residue_one])

theorem residue_ne_zero_of_lt {a : Nat} (hpos : 0 < a) (ha : a < 256) : residue a ≠ 0 := fun h =>
  hpos.ne' (eq_of_residue_eq ha (by decide) (h.trans residue_zero.symm))

/-- In the field every number from 1 to 255 has an inverse. -/
theorem xgcd_modulus_of_byte {a : Nat} (hpos : 0 < a) (ha : a ≤ 255) :
    (xgcd a modulus).1 = 1 ∧ polyMul a (polyInv a) = 1 :=
  have hne := residue_ne_zero_of_lt hpos (Nat.lt_succ_of_le ha)
  ⟨(xgcd_modulus_eq_one_iff a).mpr hne, polyMul_polyInv hne⟩

/-! ### The comparison (R119) -/

theorem polyCompare_of_eq {a b : Nat} (h : a = b) : polyCompare a b = 0 := if_pos h

theorem polyCompare_of_gt {a b : Nat} (h : a > b) : polyCompare a b = 1 := by
  rw [polyCompare, if_neg h.ne', if_pos h]

theorem polyCompare_of_lt {a b : Nat} (h : a < b) : polyCompare a b = 2 := by
  rw [polyCompare, if_neg h.ne, if_neg h.not_gt]

/-! ### The words and the registers of the commands (30_encoding.md R71, R74; 10_state.md R21) -/

/-- The number of the word of a well-formed command decodes to that command. -/
theorem decodes_of_toNat_encode {n : Nat} (i : Instr) (hi : i.WellFormed) (h : (encode i).toNat = n) : Decodes n i :=
  decodes_of_encode i hi (by rw [← h, BitVec.ofNat_toNat, BitVec.setWidth_eq])

theorem State.poly_writePoly (s : State) (d r : Reg) {v : Nat} (hv : v < 2 ^ 16) :
    (s.writePoly d v).poly r = if r = d then v else s.poly r := by
  by_cases h : r = d
  · subst h; simpa [State.poly] using hv
  · simp [State.poly, Fin.val_inj, h, Ne.symm h]

/-- The three destinations of `GF.XGCD` are different registers, wherever they wrap around. -/
theorem xgcd_destinations_ne (d : Reg) : d ≠ d + 1 ∧ d ≠ d + 2 ∧ d + 1 ≠ d + 2 := by revert d; decide

/-- What the registers hold after the three writes of `GF.XGCD`. -/
theorem State.poly_writePoly_triple (s : State) (d r : Reg) {g ca cb : Nat} (hg : g < 2 ^ 16) (hca : ca < 2 ^ 16)
    (hcb : cb < 2 ^ 16) : (((s.writePoly d g).writePoly (d + 1) ca).writePoly (d + 2) cb).poly r =
      if r = d + 2 then cb else if r = d + 1 then ca else if r = d then g else s.poly r := by
  rw [State.poly_writePoly _ _ _ hcb, State.poly_writePoly _ _ _ hca, State.poly_writePoly _ _ _ hg]

/-! ### The obligations -/

/-- Settles O21: the loop of the division keeps the identity, and the polynomials determine quotient and remainder. -/
theorem longDivisionIsTheUniquePair : Obligations.LongDivisionIsTheUniquePair := by
  intro a b hb
  refine ⟨⟨eq_clmul_divmod a hb, ?_⟩, fun q r h hr => ?_⟩
  · exact (eq_zero_or_polyDeg_lt_iff ..).mpr (polyRem_lt a hb)
  · exact divmod_unique hb h ((eq_zero_or_polyDeg_lt_iff ..).mp hr)

/-- Settles O23: each equation is one of polynomials; the product of the reductions has the same residue. -/
theorem productIsShiftAddThenReduce : Obligations.ProductIsShiftAddThenReduce := by
  refine ⟨fun a => ?_, fun a b => ?_, fun a b => ?_, fun _ _ => clmul_lt (m := 15) (n := 15), fun a b =>
    ⟨Nat.le_of_lt_succ (polyMul_lt a b), ⟨_, clmul_eq_xor_polyMul a b⟩, polyMul_eq (polyMul_lt ..) ?_⟩⟩
  · exact toPoly_injective (by simp)
  · exact toPoly_injective (by simp only [toPoly_clmul, toPoly_two_mul]; ring)
  · exact toPoly_injective (by simp only [toPoly_xor, toPoly_clmul, toPoly_two_mul, toPoly_two_mul_add_one]; ring)
  · exact (by simp : residue a * residue b = residue (polyMul (polyRem a modulus) (polyRem b modulus)))

/-- Settles O25: the reading is `toPoly`, under which each function is the operation named. -/
theorem fieldUnitIsPolynomialArithmeticOverGF2 : Obligations.FieldUnitIsPolynomialArithmeticOverGF2 := by
  intro φ hφ
  obtain rfl := eq_toPoly hφ
  rw [← toPoly_modulus]
  exact ⟨toPoly_xor, toPoly_clmul, fun a b hb => ⟨toPoly_quotient a hb, toPoly_polyRem a hb⟩, toPoly_polyMul⟩

/-- Settles O26: `xgcd_spec` in terms of `clmul`, and the loops of no and of one pass. -/
theorem extendedGcdIsAGcdWithBezoutCoefficients : Obligations.ExtendedGcdIsAGcdWithBezoutCoefficients := by
  refine ⟨fun a b => ?_, fun b => (xgcd_of_le (Nat.zero_le b)).trans (xgcdOrdered_zero b), fun a ha => ⟨?_, ?_⟩⟩
  · have h := xgcd_spec a b
    obtain ⟨hdvd_a, hdvd_b⟩ := (h.divisors _).mp dvd_rfl
    refine ⟨(xgcd a b).1, (xgcd a b).2.1, (xgcd a b).2.2, rfl, Nat.le_of_lt_succ h.ca_lt, Nat.le_of_lt_succ h.cb_lt,
      ?_, toPoly_dvd_iff.mp hdvd_a, toPoly_dvd_iff.mp hdvd_b, fun c hca hcb => ?_⟩
    · refine (polyRem_modulus_eq (Nat.xor_lt_two_pow (n := 8) (polyMul_lt ..) (polyMul_lt ..)) ?_).symm
      rw [residue_xor, residue_polyMul, residue_polyMul, h.bezout]
    · exact toPoly_dvd_iff.mp ((h.divisors _).mpr ⟨toPoly_dvd_iff.mpr hca, toPoly_dvd_iff.mpr hcb⟩)
  · rw [xgcd_of_gt ha, xgcdOrdered_zero]
  · rw [xgcd_of_le le_rfl, xgcdOrdered_self ha.ne']

/-- Settles O31: the laws of the ring of residues modulo m(x), which determine a number below 256. -/
theorem fieldLaws : Obligations.FieldLaws :=
  ⟨polyMul_comm, Nat.xor_self, fun _ => xgcd_modulus_of_byte, Nat.xor_assoc, Nat.xor_comm, Nat.xor_zero,
    polyMul_assoc, polyMul_polyAdd, polyMul_one, polyMul_zero, fun _ ha => polyMul_two (Nat.lt_succ_of_le ha)⟩

/-- Settles O32: the bound of each function; a remainder is no greater than the dividend, and so no remainder of the
Euclidean algorithm greater than its operands. -/
theorem fieldResultsFitTheRegisters : Obligations.FieldResultsFitTheRegisters := by
  intro a b ha hb
  have hgcd := xgcd_spec a b
  exact ⟨Nat.xor_lt_two_pow ha hb, polyDeg_le_of_lt ha, Nat.le_of_lt_succ (polyMul_lt a b),
    Nat.le_of_lt_succ (polyInv_lt a), fun hb0 => ⟨Nat.le_of_lt_succ (polyQuot_lt a b), polyRem_le a hb0⟩,
    hgcd.g_le, Nat.le_of_lt_succ hgcd.ca_lt, Nat.le_of_lt_succ hgcd.cb_lt⟩

/-- Settles O22: the pair of O21, and the reduction of its quotient. -/
theorem quotientAndRemainderCommands : Obligations.QuotientAndRemainderCommands := by
  refine ⟨fun d a b => decodes_of_toNat_encode (.gfDiv d a b) rfl (toNat_formatR3 ..),
    fun d a b => decodes_of_toNat_encode (.gfRem d a b) rfl (toNat_formatR3 ..),
    fun s hrun d a b => ⟨fun hb => ?_, fun hb => ?_⟩⟩
  · have hzero : s.poly b = 0 := congrArg BitVec.toNat hb
    simp only [exec, execGfDiv, execGfRem, if_pos hzero, runCommand_error hrun]
    exact ⟨rfl, rfl⟩
  · have hne : s.poly b ≠ 0 := fun h => hb (BitVec.eq_of_toNat_eq h)
    refine ⟨_, _, polyQuot (s.poly a) (s.poly b), eq_clmul_divmod _ hne,
      (eq_zero_or_polyDeg_lt_iff ..).mpr (polyRem_lt _ hne), Nat.le_of_lt_succ (polyQuot_lt ..), polyQuot_of_le,
      exists_polyQuot_of_gt, ?_, ?_, (polyRem_le _ hne).trans_lt (s.p[a]).isLt⟩
    · simp only [exec, execGfDiv, if_neg hne, runCommand_ok hrun]; rfl
    · simp only [exec, execGfRem, if_neg hne, runCommand_ok hrun]; rfl

/-- Settles O24: the field product is the remainder of the division of the raw product by m(x). -/
theorem fieldMultiplication : Obligations.FieldMultiplication :=
  ⟨fun d a b => decodes_of_toNat_encode (.gfMul d a b) rfl (toNat_formatR3 ..), fun _ hrun _ _ _ =>
    ⟨_, _, clmul_eq_xor_polyMul _ _, Nat.le_of_lt_succ (polyMul_lt ..), runCommand_ok hrun _⟩⟩

/-- Settles O27: the three destinations are different registers, and no result is cut by the width of a register. -/
theorem extendedGcdCommand : Obligations.ExtendedGcdCommand := by
  refine ⟨fun d a b => decodes_of_toNat_encode (.gfXgcd d a b) rfl (toNat_formatR3 ..), fun s hrun d a b => ?_⟩
  have hspec := xgcd_spec (s.poly a) (s.poly b)
  have hg : (xgcd (s.poly a) (s.poly b)).1 < 2 ^ 16 := hspec.g_le.trans_lt (max_lt (s.p[a]).isLt (s.p[b]).isLt)
  have hca : (xgcd (s.poly a) (s.poly b)).2.1 < 2 ^ 16 := hspec.ca_lt.trans (by decide)
  have hcb : (xgcd (s.poly a) (s.poly b)).2.2 < 2 ^ 16 := hspec.cb_lt.trans (by decide)
  have hread (r : Reg) := State.poly_writePoly_triple s d r hg hca hcb
  obtain ⟨h01, h02, h12⟩ := xgcd_destinations_ne d
  refine ⟨_, runCommand_ok hrun _, rfl, ?_, fun r h0 h1 h2 => BitVec.eq_of_toNat_eq ?_⟩
  · exact Prod.ext ((hread d).trans ((if_neg h02).trans ((if_neg h01).trans (if_pos rfl))))
      (Prod.ext ((hread (d + 1)).trans ((if_neg h12).trans (if_pos rfl))) ((hread (d + 2)).trans (if_pos rfl)))
  · exact (hread r).trans ((if_neg h2).trans ((if_neg h1).trans (if_neg h0)))

/-- Settles O28: whether there is an inverse, and which, depends on the residue of the operand alone. -/
theorem multiplicativeInverse : Obligations.MultiplicativeInverse :=
  ⟨fun d a => decodes_of_toNat_encode (.gfInv d a) rfl (toNat_formatR2 ..), fun s hrun _ a =>
    ⟨polyInv (s.poly a), Nat.le_of_lt_succ (polyInv_lt _),
      fun h => polyInv_of_residue_eq_zero (polyRem_modulus_eq_zero_iff.mp h),
      fun h => polyMul_polyInv (mt polyRem_modulus_eq_zero_iff.mpr h),
      polyInv_congr (residue_polyRem _).symm, runCommand_ok hrun _⟩⟩

/-- Settles O19: the exclusive or of two registers as numbers is that of their words. -/
theorem loadImmediateMoveAndAdd : Obligations.LoadImmediateMoveAndAdd := by
  refine ⟨fun d imm => decodes_of_toNat_encode (.gfLi d imm) rfl (toNat_formatI ..),
    fun d a => decodes_of_toNat_encode (.gfMov d a) rfl (toNat_formatR2 ..),
    fun d a b => decodes_of_toNat_encode (.gfAdd d a b) rfl (toNat_formatR3 ..), fun a b => rfl,
    fun s hrun => ⟨fun d imm => runCommand_ok hrun _, fun d a => runCommand_ok hrun _, fun d a b => ?_⟩⟩
  have hxor : BitVec.ofNat 16 (polyAdd (s.poly a) (s.poly b)) = s.p[a] ^^^ s.p[b] := by
    simp [polyAdd, State.poly]
  rw [← hxor]
  exact runCommand_ok hrun _

/-- Settles O20: the degree is the position of the highest bit. -/
theorem degreeIsTheHighestSetBit : Obligations.DegreeIsTheHighestSetBit :=
  ⟨fun d a => decodes_of_toNat_encode (.gfDeg d a) rfl (toNat_formatR2 ..),
    ⟨rfl, fun a ha => ⟨two_pow_polyDeg_le ha.ne', lt_two_pow_polyDeg a⟩⟩,
    fun s hrun d a => ⟨polyDeg_le_of_lt (s.p[a]).isLt, runCommand_ok hrun _⟩⟩

/-- Settles O29: the three outcomes of `polyCompare`. -/
theorem compareCommand : Obligations.CompareCommand := by
  refine ⟨fun d a b => decodes_of_toNat_encode (.gfCmp d a b) rfl (toNat_formatR3 ..), fun s hrun d a b => ?_⟩
  have hexec {v : Nat} (hv : polyCompare (s.poly a) (s.poly b) = v) :
      exec (.gfCmp d a b) s = .next (s.writePoly d v) := hv ▸ runCommand_ok hrun _
  exact ⟨fun h => hexec (polyCompare_of_eq h), fun h => hexec (polyCompare_of_gt h),
    fun h => hexec (polyCompare_of_lt h)⟩

/-- Settles O30: an access to one byte is always within DMEM, and the range check of the operand decides a store. -/
theorem loadAndStoreByte : Obligations.LoadAndStoreByte := by
  refine ⟨fun d a => decodes_of_toNat_encode (.gfLdb d a) rfl (toNat_formatRM ..),
    fun r a => decodes_of_toNat_encode (.gfStb r a) rfl (toNat_formatRM ..),
    fun s hrun => ⟨fun d a => ?_, fun r a h => ?_, fun r a h => ?_⟩⟩
  · rw [BitVec.ofNat_toNat]; exact runCommand_ok hrun _
  · simp only [exec, execGfStb, byteOperand_of_wide h]
    exact runCommand_error hrun .operandRange
  · have haddr : a.toNat + 1 ≤ 256 := a.isLt
    refine ⟨s.writeDmem (Memory.write s.dmem a.toNat (BitVec.ofNat 8 (s.poly r))), ?_, rfl, fun j hj => ?_,
      fun x hx => ?_⟩
    · simp only [exec, execGfStb, byteOperand_of_byte h]
      exact (congrArg (runCommand s) (memWrite_of_le haddr)).trans (runCommand_ok hrun _)
    · obtain rfl : j = 0 := by omega
      exact Memory.read_write_self ..
    · rw [byteAt, State.writeDmem_dmem, Memory.read_write, if_neg (by omega)]

end Sys2Proof.Machine

/-! PROOFS of the family 41_sbox.md. First what can be drawn and the bits of the two byte functions; then what the
operand checks of the commands let through; then the obligations O33 to O37. -/

namespace Sys2Proof.Machine

open Sys2Proof Sys2Proof.Stated

/-! ### Every permutation is drawn (41_sbox.md R132) -/

/-- A draw that names the place of `b` in the pool takes `b` out. -/
theorem drawFrom_of_idxOf {draw : Nat → (n : Nat) → Fin (n + 1)} {n k : Nat} {pool : List Byte} {b : Byte}
    (hb : b ∈ pool) (hdraw : (draw k n).val = pool.idxOf b) :
    drawFrom draw (n + 1) k pool = b :: drawFrom draw n (k + 1) (pool.erase b) := by
  have hplace : pool[pool.idxOf b]? = some b := List.getElem?_idxOf hb
  simp only [drawFrom, hdraw, hplace, List.erase_eq_eraseIdx_of_idxOf rfl]

/-- The draws from position `k` on do not depend on an earlier one. -/
theorem drawFrom_update_of_lt (draw : Nat → (n : Nat) → Fin (n + 1)) {j k : Nat} (hjk : j < k)
    (f : (n : Nat) → Fin (n + 1)) (n : Nat) (pool : List Byte) :
    drawFrom (Function.update draw j f) n k pool = drawFrom draw n k pool := by
  induction n generalizing k pool with
  | zero => rfl
  | succ n ih =>
    simp only [drawFrom, Function.update_of_ne hjk.ne', ih (Nat.lt_succ_of_lt hjk)]

/-- Every order of the pool is drawn by some draw function: the first draw names the place of the first byte, and the
others are those that draw the rest. -/
theorem exists_drawFrom_eq (l pool : List Byte) (k : Nat) (h : l.Perm pool) :
    ∃ draw : Nat → (n : Nat) → Fin (n + 1), drawFrom draw l.length k pool = l := by
  induction l generalizing pool k with
  | nil => exact ⟨fun _ _ => 0, rfl⟩
  | cons b l ih =>
    obtain ⟨hb, hrest⟩ := List.cons_perm_iff_perm_erase.mp h
    obtain ⟨draw, hdraw⟩ := ih (pool.erase b) (k + 1) hrest
    have hplace : pool.idxOf b < (b :: l).length := h.length_eq ▸ List.idxOf_lt_length_iff.mpr hb
    refine ⟨Function.update draw k fun n => Fin.ofNat (n + 1) (pool.idxOf b), ?_⟩
    rw [List.length_cons, drawFrom_of_idxOf hb (by simpa using Nat.le_of_lt_succ hplace),
      drawFrom_update_of_lt _ (Nat.lt_succ_self k), hdraw]

theorem mem_initialPool (b : Byte) : b ∈ initialPool :=
  List.mem_map.mpr ⟨b.toNat, List.mem_range.mpr b.isLt, by simp⟩

/-- An injective table holds the byte values in some order. -/
theorem toList_perm_initialPool {perm : Table} (h : Function.Injective (Table.lookup perm)) :
    perm.toList.Perm initialPool := by
  have hnodup : perm.toList.Nodup := List.nodup_iff_injective_getElem.mpr fun i j hij => by
    have hi : i.val < 256 := by simpa using i.isLt
    have hj : j.val < 256 := by simpa using j.isLt
    have hbyte : BitVec.ofNatLT i.val hi = BitVec.ofNatLT j.val hj := h hij
    exact Fin.ext (by simpa using congrArg BitVec.toNat hbyte)
  exact (hnodup.subperm fun b _ => mem_initialPool b).perm_of_length_le (by simp [initialPool])

/-- Settles O33: an injective map of the byte values to themselves is onto, and an injective table is an order of the
pool. -/
theorem drawsGiveExactlyThePermutations : Obligations.DrawsGiveExactlyThePermutations := by
  refine ⟨fun draw b => ?_, fun perm hperm => ?_⟩
  · have hinj := lookup_permutationOf_injective draw
    obtain ⟨k, rfl⟩ := Finite.injective_iff_surjective.mp hinj b
    exact ⟨k, rfl, fun j hj => hinj hj⟩
  · obtain ⟨draw, hdraw⟩ := exists_drawFrom_eq perm.toList initialPool 0 (toList_perm_initialPool fun j k => hperm j k)
    rw [Vector.length_toList] at hdraw
    exact ⟨draw, Vector.toList_inj.mp hdraw⟩

/-! ### The bit reversal and the affine step (R130, R131) -/

/-- Bit `i` goes to bit `7 - i` (R130). -/
theorem getLsbD_bitrev8 (b : Byte) {i : Nat} (hi : i < 8) : (bitrev8 b).getLsbD i = b.getLsbD (7 - i) := by
  have hall : ∀ b : Byte, ∀ i < 8, (bitrev8 b).getLsbD i = b.getLsbD (7 - i) := by decide +kernel
  exact hall b i hi

theorem bitrev8_bitrev8 (b : Byte) : bitrev8 (bitrev8 b) = b := by
  refine BitVec.eq_of_getLsbD_eq fun i hi => ?_
  rw [getLsbD_bitrev8 _ hi, getLsbD_bitrev8 _ (by omega), Nat.sub_sub_self (by omega)]

/-- The product of two bytes is a byte, so nothing of it is cut off. -/
theorem toNat_byteMul (x y : Byte) : (byteMul x y).toNat = polyMul x.toNat y.toNat :=
  (BitVec.toNat_ofNat ..).trans (Nat.mod_eq_of_lt (polyMul_lt ..))

theorem toNat_affine (b : Byte) : (affine b).toNat = polyMul (bitrev8 b).toNat 0x1F ^^^ 0x63 := by
  rw [affine, BitVec.toNat_xor, toNat_byteMul]; rfl

/-! ### The operands of the table commands (R139 to R142) -/

theorem State.writeByte_eq (s : State) (d : Reg) (b : Byte) :
    s.writeByte d b = { s with p := s.p.set d (BitVec.ofNat 16 b.toNat) } := by
  rw [BitVec.ofNat_toNat]; rfl

section
variable {s : State} (hrun : s.Running) {a : Reg}
include hrun

/-- A command whose first check is that of a byte operand takes `OPERAND_RANGE` on a register above 255. -/
theorem runCommand_byteOperand_of_wide (h : 255 < s.p[a].toNat) (f : Byte → Except FaultCode State) :
    runCommand s (byteOperand s a >>= f) = .next (faulted s 10) := by
  rw [byteOperand_of_wide h]; exact runCommand_error hrun .operandRange

/-- A command whose one check is that of a byte operand writes the byte computed from it. -/
theorem runCommand_byteOperand_of_byte (d : Reg) {b : Byte} (h : s.p[a].toNat = b.toNat) (f : Byte → Byte) :
    runCommand s (byteOperand s a >>= fun x => pure (s.writeByte d (f x))) =
      .next { s with p := s.p.set d (BitVec.ofNat 16 (f b).toNat) } := by
  have hpoly : s.poly a = b.toNat := h
  have hle : s.poly a ≤ 255 := hpoly ▸ Nat.le_of_lt_succ b.isLt
  rw [byteOperand_of_byte hle, hpoly, BitVec.ofNat_toNat, BitVec.setWidth_eq, ← State.writeByte_eq]
  exact runCommand_ok hrun _

/-- A command that needs a box takes `SBOX_NOT_BUILT` without one. -/
theorem runCommand_needBox_of_unbuilt (h : s.status.sbv = false) (f : Unit → Except FaultCode State) :
    runCommand s (needBox s >>= f) = .next (faulted s 7) := by
  rw [needBox_of_unbuilt h]; exact runCommand_error hrun .sboxNotBuilt

end

/-- With a box a command that needs one goes on to its other checks. -/
theorem needBox_bind_of_built {s : State} (h : s.status.sbv = true) (f : Unit → Except FaultCode State) :
    (needBox s >>= f) = f () := by rw [needBox_of_built h]; rfl

/-! ### The obligations -/

/-- Settles O35: a permutation gives an injective forward table, and the inverse construction inverts it. -/
theorem buildGivesMutuallyInverseTables : Obligations.BuildGivesMutuallyInverseTables := by
  refine ⟨decodes_of_encode .sbBuild rfl rfl, fun s hrun => ⟨_, runCommand_ok hrun _, rfl, rfl, fun i => ?_, ?_⟩⟩
  · rw [State.buildBox_fwd, lookup_buildForward]
  · rw [State.buildBox_fwd, State.buildBox_inv]; exact boxesInverse_build s.seed s.inv

/-- SEED from its two halves (R136, R137). -/
theorem append_halves_eq_ofNat (x y : BitVec 16) : x ++ y = BitVec.ofNat 32 (x.toNat * 2 ^ 16 + y.toNat) := by
  rw [← toNat_append_add, BitVec.ofNat_toNat, BitVec.setWidth_eq]

/-- Settles O34: each half of SEED as a number. -/
theorem seedHalves : Obligations.SeedHalves := by
  refine ⟨fun imm => decodes_of_toNat_encode (.seedLo imm) rfl (toNat_formatI0 ..),
    fun imm => decodes_of_toNat_encode (.seedHi imm) rfl (toNat_formatI0 ..), fun s hrun imm => ?_⟩
  have hlow : (s.seed.extractLsb' 0 16).toNat = s.seed.toNat % 2 ^ 16 := BitVec.extractLsb'_toNat ..
  have hhigh : (s.seed.extractLsb' 16 16).toNat = s.seed.toNat / 2 ^ 16 := by
    rw [BitVec.extractLsb'_toNat, Nat.shiftRight_eq_div_pow]; omega
  rw [← hlow, ← hhigh, ← append_halves_eq_ofNat, ← append_halves_eq_ofNat]
  exact ⟨runCommand_ok hrun _, runCommand_ok hrun _⟩

/-- Settles O36: the box is checked first, then the index, which names an entry of the table. -/
theorem boxLookups : Obligations.BoxLookups := by
  refine ⟨fun d a => decodes_of_toNat_encode (.sbFwd d a) rfl (toNat_formatR2 ..),
    fun d a => decodes_of_toNat_encode (.sbInv d a) rfl (toNat_formatR2 ..),
    fun s hrun d a => ⟨fun hbox => ?_, fun hbox hwide => ?_, fun hbyte hbox => ?_⟩⟩
  · exact ⟨runCommand_needBox_of_unbuilt hrun hbox _, runCommand_needBox_of_unbuilt hrun hbox _⟩
  · simp only [exec, execSbFwd, execSbInv, needBox_bind_of_built hbox]
    exact ⟨runCommand_byteOperand_of_wide hrun hwide _, runCommand_byteOperand_of_wide hrun hwide _⟩
  · have hindex : s.p[a].toNat = (BitVec.ofNat 8 s.p[a].toNat).toNat := by
      rw [BitVec.toNat_ofNat, Nat.mod_eq_of_lt hbyte]
    have hentry (box : Table) : box[s.p[a].toNat] = Table.lookup box (BitVec.ofNat 8 s.p[a].toNat) := by
      simp only [Table.lookup, ← hindex]
    simp only [exec, execSbFwd, execSbInv, needBox_bind_of_built hbox, hentry]
    exact ⟨runCommand_byteOperand_of_byte hrun d hindex _, runCommand_byteOperand_of_byte hrun d hindex _⟩

/-- Settles O37: the bits of `bitrev8`, the product in `affine`, and the two commands that apply them. -/
theorem affineAndBitReversal : Obligations.AffineAndBitReversal :=
  ⟨fun d a => decodes_of_toNat_encode (.sbAff d a) rfl (toNat_formatR2 ..),
    fun d a => decodes_of_toNat_encode (.sbBrev d a) rfl (toNat_formatR2 ..),
    fun b => ⟨fun _ => getLsbD_bitrev8 b, bitrev8_bitrev8 b, toNat_affine b⟩,
    fun _ hrun d _ =>
      ⟨fun hwide => ⟨runCommand_byteOperand_of_wide hrun hwide _, runCommand_byteOperand_of_wide hrun hwide _⟩,
        fun _ hbyte => ⟨runCommand_byteOperand_of_byte hrun d hbyte _, runCommand_byteOperand_of_byte hrun d hbyte _⟩⟩⟩

end Sys2Proof.Machine

/-! PROOFS of the family 42_state_rounds.md. First what each matrix function does to the flat bytes; then the product of
matrices, whose laws are those of the residues modulo m(x); then what undoes each round transformation; then what the
checks of the commands let through; then the obligations O38 to O46. -/

namespace Sys2Proof.Machine

open Sys2Proof Sys2Proof.Stated

/-! ### The flat bytes of a matrix (10_state.md R27; R150 to R153, R156, R160) -/

theorem flat_eq_entry (m : Matrix) (i : Fin 16) : flat m i = Matrix.entry m (flatRow i) (flatCol i) := rfl

/-- Flat index `4c + r` is the entry at row `r`, column `c`. -/
theorem flat_column (m : Matrix) (r c : Fin 4) (h : 4 * c.val + r.val < 16) :
    flat m ⟨4 * c.val + r.val, h⟩ = Matrix.entry m r c := by
  rw [flat_eq_entry, flatRow_flat, flatCol_flat]

theorem flat_toState (seq : List Byte) (i : Fin 16) : flat (toState seq) i = seq.getD i.val 0 := by
  have hindex : 4 * (flatCol i).val + (flatRow i).val = i.val := Nat.div_add_mod i.val 4
  rw [flat_eq_entry, entry_toState, hindex]

/-- A run of bytes read from DMEM fills the matrix in flat order, with zeros after it. -/
theorem flat_toState_readRun (m : Memory) (a n : Nat) (i : Fin 16) :
    flat (toState (Memory.readRun m a n)) i = if i.val < n then Memory.read m (a + i.val) else 0 := by
  rw [flat_toState]
  split
  next h => rw [List.getD_eq_getElem _ _ (by simpa using h), Memory.getElem_readRun]
  next h => exact List.getD_eq_default _ _ (by simpa using h)

/-- The run of flat bytes that `ST.ST` stores (R158) has the length its operand says. -/
theorem length_flatBytes (m : Matrix) {n : Nat} (hn : n ≤ 16) : ((fromState m).toList.take n).length = n :=
  List.length_take_of_le (by simpa using hn)

theorem getElem_flatBytes (m : Matrix) (n j : Nat) (hj : j < ((fromState m).toList.take n).length) :
    ((fromState m).toList.take n)[j] = if h : j < 16 then flat m ⟨j, h⟩ else 0 := by
  have hlt : j < 16 := hj.trans_le ((List.length_take_le' ..).trans_eq Vector.length_toList)
  simp [hlt, flat_eq_entry]

theorem flat_addRoundKey (m k : Matrix) (i : Fin 16) : flat (addRoundKey m k) i = flat m i ^^^ flat k i :=
  entry_addRoundKey m k (flatRow i) (flatCol i)

theorem flat_byteSubstitution (m : Matrix) (box : Table) (i : Fin 16) :
    flat (byteSubstitution m box) i = Table.lookup box (flat m i) :=
  entry_byteSubstitution m box (flatRow i) (flatCol i)

/-- The positions R153 lists for the forward direction: the row is kept, the column moves by the row. -/
theorem flat_shiftRows_forward (m : Matrix) (i : Fin 16) :
    flat (shiftRows .forward m) i =
      flat m ((#v[0, 5, 10, 15, 4, 9, 14, 3, 8, 13, 2, 7, 12, 1, 6, 11] : Vector (Fin 16) 16)[i]) := by
  have hpos : ∀ i : Fin 16,
      let j := (#v[0, 5, 10, 15, 4, 9, 14, 3, 8, 13, 2, 7, 12, 1, 6, 11] : Vector (Fin 16) 16)[i]
      flatRow j = flatRow i ∧ flatCol j = flatCol i + flatRow i := by decide
  obtain ⟨hrow, hcol⟩ := hpos i
  rw [flat_eq_entry, flat_eq_entry, entry_shiftRows_forward, hrow, hcol]

/-- The positions R153 lists for the inverse direction. -/
theorem flat_shiftRows_inverse (m : Matrix) (i : Fin 16) :
    flat (shiftRows .inverse m) i =
      flat m ((#v[0, 13, 10, 7, 4, 1, 14, 11, 8, 5, 2, 15, 12, 9, 6, 3] : Vector (Fin 16) 16)[i]) := by
  have hpos : ∀ i : Fin 16,
      let j := (#v[0, 13, 10, 7, 4, 1, 14, 11, 8, 5, 2, 15, 12, 9, 6, 3] : Vector (Fin 16) 16)[i]
      flatRow j = flatRow i ∧ flatCol j = flatCol i - flatRow i := by decide
  obtain ⟨hrow, hcol⟩ := hpos i
  rw [flat_eq_entry, flat_eq_entry, entry_shiftRows_inverse, hrow, hcol]

theorem entry_setFlat (m : Matrix) (k : FlatIndex) (b : Byte) (r c : Fin 4) :
    Matrix.entry (Matrix.setFlat m k b) r c =
      if flatRow k = r ∧ flatCol k = c then b else Matrix.entry m r c := by
  simp only [Matrix.entry, Matrix.setFlat, Fin.getElem_fin, Vector.getElem_set, Fin.val_inj]
  by_cases hrow : flatRow k = r
  · subst hrow; simp only [if_true, true_and, Vector.getElem_set, Fin.val_inj]
  · simp only [hrow, if_false, false_and]

/-- A write of one byte of the matrix leaves the other fifteen. -/
theorem flat_setFlat (m : Matrix) (k j : FlatIndex) (b : Byte) :
    flat (Matrix.setFlat m k b) j = if j = k then b else flat m j := by
  have hsame : (flatRow k = flatRow j ∧ flatCol k = flatCol j) ↔ j = k := by revert k j; decide
  simp only [flat_eq_entry, entry_setFlat, hsame]

/-! ### The product of matrices in the field (R154, R155, R169, R170) -/

/-- The element of the ring of residues modulo m(x) that a byte stands for. -/
noncomputable def byteResidue (b : Byte) : AdjoinRoot (toPoly modulus) := residue b.toNat

theorem byteResidue_injective : Function.Injective byteResidue := fun x y h =>
  BitVec.eq_of_toNat_eq (eq_of_residue_eq x.isLt y.isLt h)

@[simp] theorem byteResidue_xor (x y : Byte) : byteResidue (x ^^^ y) = byteResidue x + byteResidue y := by
  rw [byteResidue, BitVec.toNat_xor, residue_xor]; rfl

@[simp] theorem byteResidue_byteMul (x y : Byte) : byteResidue (byteMul x y) = byteResidue x * byteResidue y := by
  rw [byteResidue, toNat_byteMul, residue_polyMul]; rfl

@[simp] theorem byteResidue_zero : byteResidue 0#8 = 0 := residue_zero

@[simp] theorem byteResidue_one : byteResidue 1#8 = 1 := residue_one

/-- The product of matrices is associative, as the residues are a commutative ring. -/
theorem mixProduct_assoc (x y m : Matrix) : mixProduct x (mixProduct y m) = mixProduct (mixProduct x y) m :=
  Matrix.ext_entry fun _ _ => byteResidue_injective (by
    simp only [entry_mixProduct, byteResidue_xor, byteResidue_byteMul]; ring)

/-- The product of matrices distributes over XOR. -/
theorem mixProduct_addRoundKey (x m n : Matrix) :
    mixProduct x (addRoundKey m n) = addRoundKey (mixProduct x m) (mixProduct x n) :=
  Matrix.ext_entry fun _ _ => byteResidue_injective (by
    simp only [entry_mixProduct, entry_addRoundKey, byteResidue_xor, byteResidue_byteMul]; ring)

/-- The matrix that leaves every column as it is. -/
def identityMatrix : Matrix := Matrix.ofFn fun i k => if i = k then 1 else 0

theorem mixProduct_identityMatrix (m : Matrix) : mixProduct identityMatrix m = m :=
  Matrix.ext_entry fun i c => by
    apply byteResidue_injective
    fin_cases i <;> simp [entry_mixProduct, identityMatrix]

/-- `MIX_I` times `MIX_F` is the identity (R154). -/
theorem mixMatrix_inverse_forward : mixProduct (mixMatrix .inverse) (mixMatrix .forward) = identityMatrix := by
  decide +kernel

theorem mixMatrix_forward_inverse : mixProduct (mixMatrix .forward) (mixMatrix .inverse) = identityMatrix := by
  decide +kernel

theorem mixColumns_inverse_forward (m : Matrix) : mixColumns .inverse (mixColumns .forward m) = m := by
  rw [mixColumns, mixColumns, mixProduct_assoc, mixMatrix_inverse_forward, mixProduct_identityMatrix]

theorem mixColumns_forward_inverse (m : Matrix) : mixColumns .forward (mixColumns .inverse m) = m := by
  rw [mixColumns, mixColumns, mixProduct_assoc, mixMatrix_forward_inverse, mixProduct_identityMatrix]

/-- The XOR of four bytes in a cycle may begin at any of them. -/
theorem xor_cycle (f : Fin 4 → Byte) (i : Fin 4) :
    f 0 ^^^ f 1 ^^^ f 2 ^^^ f 3 = f i ^^^ f (i + 1) ^^^ f (i + 2) ^^^ f (i + 3) := by
  have hturn (a b c d : Byte) : a ^^^ b ^^^ c ^^^ d = b ^^^ c ^^^ d ^^^ a := by ac_rfl
  match i with
  | 0 => rfl
  | 1 => exact hturn ..
  | 2 => exact (hturn ..).trans (hturn ..)
  | 3 => exact ((hturn ..).trans (hturn ..)).trans (hturn ..)

/-- Row `i` of the matrix is the first row rotated right by `i`, so it meets the column from row `i` on. -/
theorem entry_mixColumns (dir : Direction) (m : Matrix) (i c : Fin 4) :
    Matrix.entry (mixColumns dir m) i c =
      byteMul (mixFirstRow dir)[0] (Matrix.entry m i c) ^^^ byteMul (mixFirstRow dir)[1] (Matrix.entry m (i + 1) c) ^^^
        byteMul (mixFirstRow dir)[2] (Matrix.entry m (i + 2) c) ^^^
        byteMul (mixFirstRow dir)[3] (Matrix.entry m (i + 3) c) := by
  rw [mixColumns, entry_mixProduct,
    xor_cycle (fun k => byteMul (Matrix.entry (mixMatrix dir) i k) (Matrix.entry m k c)) i]
  simp

/-- The same of the flat bytes as numbers: column `c` is the flat bytes `4c` to `4c + 3`. -/
theorem toNat_flat_mixColumns (dir : Direction) (m : Matrix) (c i : Fin 4) :
    (flat (mixColumns dir m) ⟨4 * c.val + i.val, by omega⟩).toNat =
      polyMul (mixFirstRow dir)[0].toNat (flat m ⟨4 * c.val + i.val, by omega⟩).toNat ^^^
      polyMul (mixFirstRow dir)[1].toNat (flat m ⟨4 * c.val + (i + 1).val, by omega⟩).toNat ^^^
      polyMul (mixFirstRow dir)[2].toNat (flat m ⟨4 * c.val + (i + 2).val, by omega⟩).toNat ^^^
      polyMul (mixFirstRow dir)[3].toNat (flat m ⟨4 * c.val + (i + 3).val, by omega⟩).toNat := by
  simp only [flat_column, entry_mixColumns, BitVec.toNat_xor, toNat_byteMul]

/-- The factor 1 of the first row of `MIX_F`. -/
theorem polyMul_one_byte (b : Byte) : polyMul 1 b.toNat = b.toNat := polyMul_eq b.isLt (by simp)

/-! ### What undoes and what commutes with a round transformation (R169, R170) -/

theorem shiftRows_inverse_forward (m : Matrix) : shiftRows .inverse (shiftRows .forward m) = m :=
  Matrix.ext_entry fun _ _ => by simp

theorem shiftRows_forward_inverse (m : Matrix) : shiftRows .forward (shiftRows .inverse m) = m :=
  Matrix.ext_entry fun _ _ => by simp

theorem addRoundKey_addRoundKey (m k : Matrix) : addRoundKey (addRoundKey m k) k = m :=
  Matrix.ext_entry fun _ _ => by simp

/-- A substitution is undone by a table that undoes its table. -/
theorem byteSubstitution_byteSubstitution {box back : Table} (m : Matrix)
    (h : ∀ x, Table.lookup back (Table.lookup box x) = x) : byteSubstitution (byteSubstitution m box) back = m :=
  Matrix.ext_entry fun _ _ => by simp [h]

theorem shiftRows_byteSubstitution (dir : Direction) (m : Matrix) (box : Table) :
    shiftRows dir (byteSubstitution m box) = byteSubstitution (shiftRows dir m) box := by
  cases dir <;> exact Matrix.ext_entry fun _ _ => by simp

/-! ### The checks of the commands (20_memory.md R51, R56; R157, R158, R167) -/

section
variable {s : State} (hrun : s.Running) {addr : Addr} {len : Len}
include hrun

/-- A command that reads a block takes `BLOCK_TOO_LONG` on a length above 16. -/
theorem runCommand_blockOperand_of_long (hl : 16 < len.val) (f : List Byte → Except FaultCode State) :
    runCommand s (blockOperand s addr len >>= f) = .next (faulted s 2) := by
  rw [blockOperand_of_long hl]; exact runCommand_error hrun .blockTooLong

/-- A command that reads a block takes `DMEM_RANGE` on a legal length that runs past the end of DMEM. -/
theorem runCommand_blockOperand_of_beyond (hl : len.val ≤ 16) (h : 256 < addr.toNat + len.val)
    (f : List Byte → Except FaultCode State) :
    runCommand s (blockOperand s addr len >>= f) = .next (faulted s 9) := by
  rw [blockOperand_of_beyond hl h]; exact runCommand_error hrun .dmemRange

/-- With its block inside DMEM a command that turns it into a matrix writes that matrix. -/
theorem runCommand_blockOperand_of_le (hl : len.val ≤ 16) (h : addr.toNat + len.val ≤ 256) (f : List Byte → Matrix) :
    runCommand s (blockOperand s addr len >>= fun seq => pure (s.writeMatrix (f seq))) =
      .next (s.writeMatrix (f (Memory.readRun s.dmem addr.toNat len.val))) := by
  rw [blockOperand_of_le hl h]; exact runCommand_ok hrun _

/-- A command that needs a key takes `KEY_NOT_EXPANDED` without one. -/
theorem runCommand_needKey_of_unexpanded (h : s.status.kv = false) (f : Unit → Except FaultCode State) :
    runCommand s (needKey s >>= f) = .next (faulted s 8) := by
  rw [needKey_of_unexpanded h]; exact runCommand_error hrun .keyNotExpanded

/-- A store takes `DMEM_RANGE` when its bytes run past the end of DMEM. -/
theorem runCommand_memWrite_of_beyond {v : List Byte} (h : 256 < addr.toNat + v.length) :
    runCommand s (memWrite s addr v) = .next (faulted s 9) := by
  rw [memWrite_of_beyond h]; exact runCommand_error hrun .dmemRange

/-- A store inside DMEM leaves its bytes at its address, and everything else as it was. -/
theorem exists_runCommand_memWrite_stores {v : List Byte} (h : addr.toNat + v.length ≤ 256) {f : Nat → Byte}
    (hv : ∀ j (hj : j < v.length), v[j] = f j) :
    ∃ t, runCommand s (memWrite s addr v) = .next t ∧ Stores s t addr.toNat v.length f := by
  refine ⟨s.writeDmem (Memory.writeRun s.dmem addr.toNat v), ?_, rfl, fun j hj => ?_, fun x hx => ?_⟩
  · rw [memWrite_of_le h]; exact runCommand_ok hrun _
  · rw [byteAt, State.writeDmem_dmem, Memory.read_writeRun, dif_pos (by omega), ← hv j hj]
    simp only [Nat.add_sub_cancel_left]
  · rw [byteAt, State.writeDmem_dmem, Memory.read_writeRun, dif_neg (by omega)]

end

/-- With a key a command that needs one goes on to its other checks. -/
theorem needKey_bind_of_expanded {s : State} (h : s.status.kv = true) (f : Unit → Except FaultCode State) :
    (needKey s >>= f) = f () := by rw [needKey_of_expanded h]; rfl

/-- `ST.ST` with a legal length is a store of that many flat bytes. -/
theorem exec_stSt_of_le {s : State} {addr : Addr} {len : Len} (hl : len.val ≤ 16) :
    exec (.stSt addr len) s = runCommand s (memWrite s addr ((fromState s.matrix).toList.take len.val)) := by
  simp only [exec, execStSt, blockLength_of_le hl]; rfl

/-! ### The obligations -/

/-- Settles O38: the checks of a block operand, and the fill of the matrix from it. -/
theorem loadState : Obligations.LoadState :=
  ⟨fun a l => decodes_of_toNat_encode (.stLd a l) rfl (toNat_formatM ..), fun s hrun a l =>
    ⟨fun hl => runCommand_blockOperand_of_long hrun hl _, fun hl h => runCommand_blockOperand_of_beyond hrun hl h _,
      fun hl h => ⟨_, runCommand_blockOperand_of_le hrun hl h toState, rfl, flat_toState_readRun s.dmem a.toNat l.val⟩⟩⟩

/-- Settles O39: the length check decides how many flat bytes are stored, and the range check whether they are. -/
theorem storeState : Obligations.StoreState := by
  refine ⟨fun a l => decodes_of_toNat_encode (.stSt a l) rfl (toNat_formatM ..),
    fun s hrun a l => ⟨fun hl => ?_, fun hl h => ?_, fun hl h => ?_⟩⟩
  · simp only [exec, execStSt, blockLength_of_long hl]
    exact runCommand_error hrun .blockTooLong
  · rw [exec_stSt_of_le hl]
    exact runCommand_memWrite_of_beyond hrun (by rwa [length_flatBytes s.matrix hl])
  · have hstores := exists_runCommand_memWrite_stores hrun (addr := a) (by rwa [length_flatBytes s.matrix hl])
      (getElem_flatBytes s.matrix l.val)
    rwa [length_flatBytes s.matrix hl, ← exec_stSt_of_le hl] at hstores

/-- Settles O42: the two lists of flat positions. -/
theorem shiftRowsPositions : Obligations.ShiftRowsPositions :=
  ⟨decodes_of_encode .shiftrows rfl rfl, decodes_of_encode .ishiftrows rfl rfl, fun s hrun =>
    ⟨⟨_, runCommand_ok hrun _, rfl, flat_shiftRows_forward s.matrix⟩,
      ⟨_, runCommand_ok hrun _, rfl, flat_shiftRows_inverse s.matrix⟩⟩⟩

/-- Settles O43: the entries of the product, column by column in flat order; a factor 1 leaves its byte. -/
theorem mixColumnsProducts : Obligations.MixColumnsProducts := by
  refine ⟨decodes_of_encode .mixcols rfl rfl, decodes_of_encode .imixcols rfl rfl, fun s hrun =>
    ⟨⟨_, runCommand_ok hrun _, rfl, fun c i => ?_⟩, ⟨_, runCommand_ok hrun _, rfl, fun c i => ?_⟩⟩⟩
  · refine (toNat_flat_mixColumns .forward s.matrix c i).trans ?_
    change polyMul 2 _ ^^^ polyMul 3 _ ^^^ polyMul 1 _ ^^^ polyMul 1 _ = _
    rw [polyMul_one_byte, polyMul_one_byte]; rfl
  · exact toNat_flat_mixColumns .inverse s.matrix c i

/-- Settles O45: the checks of a block operand; a zero after the block changes no byte. -/
theorem addBlockFromDmem : Obligations.AddBlockFromDmem := by
  refine ⟨fun a l => decodes_of_toNat_encode (.arkm a l) rfl (toNat_formatM ..), fun s hrun a l =>
    ⟨fun hl => runCommand_blockOperand_of_long hrun hl _, fun hl h => runCommand_blockOperand_of_beyond hrun hl h _,
      fun hl h => ⟨_, runCommand_blockOperand_of_le hrun hl h fun seq => addRoundKey s.matrix (toState seq), rfl,
        fun i => ?_⟩⟩⟩
  rw [State.writeMatrix_matrix, flat_addRoundKey, flat_toState_readRun]
  split
  · rfl
  · exact BitVec.xor_zero

/-- Settles O46: each direction undoes the other entry by entry, and the two mix matrices are inverse to each other. -/
theorem roundTransformationsUndoEachOther : Obligations.RoundTransformationsUndoEachOther :=
  ⟨fun m => ⟨shiftRows_inverse_forward m, shiftRows_forward_inverse m, mixColumns_inverse_forward m,
      mixColumns_forward_inverse m, addRoundKey_addRoundKey m, fun _ _ ⟨hfwd, hinv⟩ =>
        ⟨byteSubstitution_byteSubstitution m hfwd, byteSubstitution_byteSubstitution m hinv⟩⟩,
    fun d m n box => ⟨mixProduct_addRoundKey (mixMatrix d) m n, shiftRows_byteSubstitution d m box⟩⟩

/-- Settles O40: one flat byte read, and one written under the check of a byte operand. -/
theorem getAndSetStateByte : Obligations.GetAndSetStateByte := by
  refine ⟨fun d k => decodes_of_toNat_encode (.stGet d k) rfl (toNat_formatRX ..),
    fun r k => decodes_of_toNat_encode (.stSet r k) rfl (toNat_formatRX ..), fun s hrun =>
      ⟨fun d k => ?_, fun r k hwide => runCommand_byteOperand_of_wide hrun hwide _, fun r k hbyte => ?_⟩⟩
  · exact (runCommand_ok hrun _).trans (congrArg _ (State.writeByte_eq ..))
  · refine ⟨s.writeMatrix (Matrix.setFlat s.matrix k (BitVec.ofNat 8 (s.poly r))), ?_, rfl, ?_, fun j hj => ?_⟩
    · simp only [exec, execStSet, byteOperand_of_byte hbyte]
      exact runCommand_ok hrun _
    · rw [State.writeMatrix_matrix, flat_setFlat, if_pos rfl, BitVec.toNat_ofNat]
      exact Nat.mod_eq_of_lt (Nat.lt_succ_of_le hbyte)
    · rw [State.writeMatrix_matrix, flat_setFlat, if_neg hj]

/-- Settles O41: the box is checked first; then each flat byte goes through its table. -/
theorem substituteBytes : Obligations.SubstituteBytes := by
  refine ⟨decodes_of_encode .subbytes rfl rfl, decodes_of_encode .isubbytes rfl rfl, fun s hrun =>
    ⟨fun hbox => ⟨runCommand_needBox_of_unbuilt hrun hbox _, runCommand_needBox_of_unbuilt hrun hbox _⟩, fun hbox => ?_⟩⟩
  simp only [exec, execSubbytes, execIsubbytes, needBox_bind_of_built hbox]
  exact ⟨⟨_, runCommand_ok hrun _, rfl, flat_byteSubstitution s.matrix s.fwd⟩,
    ⟨_, runCommand_ok hrun _, rfl, flat_byteSubstitution s.matrix s.inv⟩⟩

/-- Settles O44: the key is checked first, then the index, which names a round key of the file. -/
theorem addRoundKeyFromTheFile : Obligations.AddRoundKeyFromTheFile := by
  refine ⟨fun k => decodes_of_toNat_encode (.ark k) rfl (toNat_formatX ..), fun s hrun k =>
    ⟨fun hkey => runCommand_needKey_of_unexpanded hrun hkey _, fun hkey hbeyond => ?_, fun hk hkey hle => ?_⟩⟩
  · simp only [exec, execArk, needKey_bind_of_expanded hkey, roundKeyOperand_of_beyond hbeyond]
    exact runCommand_error hrun .operandRange
  · have hround : roundKey s.rk k.val = s.rk[k.val] := dif_pos hk
    simp only [exec, execArk, needKey_bind_of_expanded hkey, roundKeyOperand_of_le hle, hround]
    exact ⟨_, runCommand_ok hrun _, rfl, flat_addRoundKey s.matrix s.rk[k.val]⟩

end Sys2Proof.Machine

/-! PROOFS of the family 43_keyschedule.md. First the fields of the `CFG` immediate; then the recurrence of the key
schedule, kept by each word the loop adds; then the bytes of a stored round key; then the obligations O47 to O50. -/

namespace Sys2Proof.Machine

open Sys2Proof Sys2Proof.Stated

/-! ### The fields of the `CFG` immediate (43_keyschedule.md R186) -/

section
variable {imm : BitVec 16}

theorem toNat_keySizeField (imm : BitVec 16) : (imm.extractLsb' 0 2).toNat = imm.toNat % 4 :=
  BitVec.extractLsb'_toNat ..

theorem toNat_chainModeField (imm : BitVec 16) : (imm.extractLsb' 2 3).toNat = imm.toNat / 4 % 8 := by
  rw [BitVec.extractLsb'_toNat, Nat.shiftRight_eq_div_pow]

theorem keySizeOperand_of_three (h : imm.toNat % 4 = 3) : keySizeOperand imm = .error .keyParam := by
  rw [keySizeOperand, toNat_keySizeField, h]; rfl

theorem keySizeOperand_of_eq (k : Fin 3) (h : imm.toNat % 4 = k.val) :
    keySizeOperand imm = .ok #v[KeySize.k128, KeySize.k192, KeySize.k256][k] := by
  rw [keySizeOperand, toNat_keySizeField, h]
  fin_cases k <;> rfl

theorem chainModeOperand_of_gt (h : 3 < imm.toNat / 4 % 8) : chainModeOperand imm = .error .chainMode := by
  obtain ⟨m, hm⟩ := Nat.exists_eq_add_of_le' h
  rw [chainModeOperand, toNat_chainModeField, hm]; rfl

theorem chainModeOperand_of_eq (m : Fin 4) (h : imm.toNat / 4 % 8 = m.val) :
    chainModeOperand imm = .ok #v[ChainMode.ecb, ChainMode.cbc, ChainMode.ofb, ChainMode.cfb][m] := by
  rw [chainModeOperand, toNat_chainModeField, h]
  fin_cases m <;> rfl

theorem wellFormed_cfg_of_lt (h : imm.toNat < 32) : (Instr.cfg imm).WellFormed := by
  refine beq_iff_eq.mpr (BitVec.eq_of_toNat_eq ?_)
  rw [BitVec.extractLsb'_toNat, Nat.shiftRight_eq_div_pow, Nat.div_eq_of_lt h]; rfl

end

/-- With a bit of imm16[15:5] set a word with the opcode of `CFG` is no command (30_encoding.md R75). -/
theorem no_match_of_cfg_reserved {n : Nat} (hlow : 32 ≤ n) (hhigh : n < 2 ^ 16) :
    ∀ r ∈ commandRows, BitVec.ofNat 32 (0x40000000 + n) &&& r.mask ≠ r.bits := by
  have hreserved : ∀ q ∈ commandRows, q.bits.extractLsb' 24 8 = 0x40#8 →
      q.mask.extractLsb' 5 11 = BitVec.allOnes 11 ∧ q.bits.extractLsb' 5 11 = 0 := by decide
  have hop : (BitVec.ofNat 32 (0x40000000 + n)).extractLsb' 24 8 = 0x40#8 := by
    apply BitVec.eq_of_toNat_eq
    rw [BitVec.extractLsb'_toNat, Nat.shiftRight_eq_div_pow, BitVec.toNat_ofNat, BitVec.toNat_ofNat]
    omega
  intro r hr hmatch
  have hzero : ((BitVec.ofNat 32 (0x40000000 + n)).extractLsb' 5 11).toNat = 0 := congrArg BitVec.toNat
    (extractLsb'_eq_zero_of_mask hmatch (hreserved r hr ((opcode_of_match hr hmatch).symm.trans hop)))
  rw [BitVec.extractLsb'_toNat, Nat.shiftRight_eq_div_pow, BitVec.toNat_ofNat] at hzero
  omega

/-! ### The recurrence of the key schedule (43_keyschedule.md R182, R183, R185) -/

/-- The index of the word that `T` is applied to at the boundary `n`, by the switch `KS_T_ARG`. -/
def tArgIndex (arg : KsTArg) (nk n : Nat) : Nat :=
  match arg with
  | .boundary => n - nk
  | .previous => n - 1

theorem tWord_getElem (fwd : Table) (w : KeyWord) (ri : Nat) (j : Fin 4) :
    (tWord fwd w ri)[j] = Table.lookup fwd w[j + 1] ^^^ (if j = 0 then BitVec.ofNat 8 (2 ^ ri) else 0) := by
  have hrcon : rcon ri = BitVec.ofNat 8 (2 ^ ri) := by rw [rcon, Nat.one_shiftLeft]
  match j with
  | 0 => rw [← hrcon]; rfl
  | 1 | 2 | 3 => exact BitVec.xor_zero.symm

theorem nextWord_of_boundary (arg : KsTArg) (fwd : Table) {nk n : Nat} (ri : Nat) (w : List KeyWord)
    (h : n % nk = 0) :
    nextWord arg fwd nk n ri w = xorWord (wordAt w (n - 1)) (tWord fwd (wordAt w (tArgIndex arg nk n)) ri) :=
  (if_pos h).trans (by cases arg <;> rfl)

theorem nextWord_of_inside (arg : KsTArg) (fwd : Table) {nk n : Nat} (ri : Nat) (w : List KeyWord)
    (h : n % nk ≠ 0) : nextWord arg fwd nk n ri w = xorWord (wordAt w (n - 1)) (wordAt w (n - nk)) := if_neg h

theorem nextWord_getElem (arg : KsTArg) (fwd : Table) (nk n ri : Nat) (w : List KeyWord) (j : Fin 4) :
    (nextWord arg fwd nk n ri w)[j] = (wordAt w (n - 1))[j] ^^^
      (if n % nk = 0 then
        Table.lookup fwd (wordAt w (tArgIndex arg nk n))[j + 1] ^^^ (if j = 0 then BitVec.ofNat 8 (2 ^ ri) else 0)
      else (wordAt w (n - nk))[j]) := by
  split
  next h => rw [nextWord_of_boundary arg fwd ri w h, Fin.getElem_fin, xorWord_getElem, ← tWord_getElem]; rfl
  next h => rw [nextWord_of_inside arg fwd ri w h]; exact xorWord_getElem _ _ _ j.isLt

theorem wordAt_append {w : List KeyWord} (v : List KeyWord) {n : Nat} (h : n < w.length) :
    wordAt (w ++ v) n = wordAt w n := List.getD_append _ _ _ _ h

theorem wordAt_append_length (w : List KeyWord) (x : KeyWord) : wordAt (w ++ [x]) w.length = x := by
  simp [wordAt]

/-- The next word depends on the words before it alone. -/
theorem nextWord_append (arg : KsTArg) (fwd : Table) {nk n : Nat} (ri : Nat) {w : List KeyWord} (v : List KeyWord)
    (hnk : 0 < nk) (hn : nk ≤ n) (hw : n ≤ w.length) :
    nextWord arg fwd nk n ri (w ++ v) = nextWord arg fwd nk n ri w := by
  have hprevious : wordAt (w ++ v) (n - 1) = wordAt w (n - 1) := wordAt_append v (by omega)
  have hgroup : wordAt (w ++ v) (n - nk) = wordAt w (n - nk) := wordAt_append v (by omega)
  simp only [nextWord, hprevious, hgroup]

/-- Every word of the list from index `nk` on is the next word of R183, with the round index `n / nk`. -/
def Recurrent (arg : KsTArg) (fwd : Table) (nk : Nat) (w : List KeyWord) : Prop :=
  ∀ n, nk ≤ n → n < w.length → wordAt w n = nextWord arg fwd nk n (n / nk) w

theorem Recurrent.append_nextWord {arg : KsTArg} {fwd : Table} {nk : Nat} {w : List KeyWord} (hnk : 0 < nk)
    (h : Recurrent arg fwd nk w) :
    Recurrent arg fwd nk (w ++ [nextWord arg fwd nk w.length (w.length / nk) w]) := by
  intro n hn hlt
  rw [List.length_append, List.length_singleton, Nat.lt_succ_iff] at hlt
  rw [nextWord_append arg fwd _ _ hnk hn hlt]
  obtain hlt | rfl := hlt.lt_or_eq
  · rw [wordAt_append _ hlt, h n hn hlt]
  · exact wordAt_append_length ..

/-- The round index of the loop before index `i`, one more than the boundaries passed, is `i / nk` at a boundary; inside
a group it is not used. -/
theorem nextWord_loopIndex (arg : KsTArg) (fwd : Table) (nk : Nat) {i : Nat} (w : List KeyWord) (hi : 0 < i) :
    nextWord arg fwd nk i ((i - 1) / nk + 1) w = nextWord arg fwd nk i (i / nk) w := by
  by_cases h : i % nk = 0
  · obtain ⟨i, rfl⟩ := Nat.exists_eq_succ_of_ne_zero hi.ne'
    rw [Nat.succ_div_of_mod_eq_zero h]; rfl
  · rw [nextWord_of_inside _ _ _ _ h, nextWord_of_inside _ _ _ _ h]

/-- The round index of the loop grows at the boundaries. -/
theorem loopIndex_succ (nk : Nat) {i : Nat} (hi : 0 < i) :
    (if i % nk = 0 then (i - 1) / nk + 1 + 1 else (i - 1) / nk + 1) = i / nk + 1 := by
  obtain ⟨i, rfl⟩ := Nat.exists_eq_succ_of_ne_zero hi.ne'
  split
  next h => rw [Nat.succ_div_of_mod_eq_zero h]; rfl
  next h => rw [Nat.succ_div_of_mod_ne_zero h]; rfl

/-- The loop keeps the recurrence. -/
theorem Recurrent.expandLoop {arg : KsTArg} {fwd : Table} {nk : Nat} (hnk : 0 < nk) (n : Nat) {w : List KeyWord}
    (hw : 0 < w.length) (h : Recurrent arg fwd nk w) :
    Recurrent arg fwd nk (expandLoop arg fwd nk n w.length ((w.length - 1) / nk + 1) w) := by
  induction n generalizing w with
  | zero => exact h
  | succ n ih =>
    have hnext := ih (by simp) (h.append_nextWord hnk)
    rw [List.length_append, List.length_singleton, Nat.add_sub_cancel] at hnext
    rwa [Machine.expandLoop, nextWord_loopIndex arg fwd nk w hw, loopIndex_succ nk hw]

theorem length_expandLoop (arg : KsTArg) (fwd : Table) (nk n i ri : Nat) (w : List KeyWord) :
    (expandLoop arg fwd nk n i ri w).length = w.length + n := by
  induction n generalizing i ri w with
  | zero => rfl
  | succ n ih => rw [expandLoop, ih, List.length_append, List.length_singleton]; omega

/-- The loop leaves the words it began with. -/
theorem wordAt_expandLoop (arg : KsTArg) (fwd : Table) (nk n i ri : Nat) {w : List KeyWord} {m : Nat}
    (h : m < w.length) : wordAt (expandLoop arg fwd nk n i ri w) m = wordAt w m := by
  induction n generalizing i ri w with
  | zero => rfl
  | succ n ih => rw [expandLoop, ih _ _ (by simp; omega), wordAt_append _ h]

/-! ### The words of the schedule (43_keyschedule.md R180, R181) -/

theorem KeySize.nk_pos (ks : KeySize) : 0 < ks.nk := by cases ks <;> decide

theorem KeySize.nk_le (ks : KeySize) : ks.nk ≤ 4 * (ks.nr + 1) := by cases ks <;> decide

section
variable (arg : KsTArg) (key : List Byte) (ks : KeySize) (fwd : Table)

theorem length_keyWords : ((List.range ks.nk).map (keyWord key)).length = ks.nk := by simp

theorem length_scheduleWords : (scheduleWords arg key ks fwd).length = 4 * (ks.nr + 1) := by
  rw [scheduleWords, length_expandLoop, length_keyWords, Nat.add_sub_cancel' ks.nk_le]

theorem wordAt_scheduleWords_of_lt {n : Nat} (h : n < ks.nk) :
    wordAt (scheduleWords arg key ks fwd) n = keyWord key n := by
  rw [scheduleWords, wordAt_expandLoop _ _ _ _ _ _ (by simpa using h)]
  simp [wordAt, h]

/-- The key's own words are all below `Nk`, where the recurrence asks nothing. -/
theorem recurrent_scheduleWords : Recurrent arg fwd ks.nk (scheduleWords arg key ks fwd) := by
  have hkey : Recurrent arg fwd ks.nk ((List.range ks.nk).map (keyWord key)) := fun n hn hlt =>
    absurd (length_keyWords key ks ▸ hlt) hn.not_gt
  have hloop := hkey.expandLoop ks.nk_pos (4 * (ks.nr + 1) - ks.nk) ((length_keyWords key ks).symm ▸ ks.nk_pos)
  rwa [length_keyWords, Nat.div_eq_of_lt (Nat.sub_lt ks.nk_pos Nat.one_pos)] at hloop

end

/-! ### The round keys in the file and in DMEM (43_keyschedule.md R184, R187, R188) -/

theorem getElem_expandInto (arg : KsTArg) (old : RoundKeys) (key : List Byte) (ks : KeySize) (fwd : Table)
    (k : Fin 15) :
    (expandInto arg old key ks fwd)[k] =
      if k.val ≤ ks.nr then packRoundKey (scheduleWords arg key ks fwd) k.val else old[k] := by
  simp [expandInto]

/-- Word `4k + c` is column `c` of round key `k`. -/
theorem flat_packRoundKey (w : List KeyWord) (k : Nat) (c j : Fin 4) (h : 4 * c.val + j.val < 16) :
    flat (packRoundKey w k) ⟨4 * c.val + j.val, h⟩ = (wordAt w (4 * k + c.val))[j] := by
  rw [flat_column]; exact Matrix.entry_ofFn _ j c

theorem getElem_fromState (m : Matrix) (j : Nat) (hj : j < (fromState m).toList.length) :
    (fromState m).toList[j] = if h : j < 16 then flat m ⟨j, h⟩ else 0 := by
  have hlt : j < 16 := hj.trans_eq Vector.length_toList
  simp [hlt, flat_eq_entry]

/-- With an index up to Nr a command that names a round key goes on with it. -/
theorem roundKeyOperand_bind_of_le {s : State} {k : Nat} (h : k ≤ s.ctrl.ks.nr)
    (f : Matrix → Except FaultCode State) : (roundKeyOperand s k >>= f) = f (roundKey s.rk k) := by
  rw [roundKeyOperand_of_le h]; rfl

/-- `KEXP` writes RK and STATUS alone. -/
theorem State.writeRoundKeys_markKeyExpanded_frame (s : State) (rk : RoundKeys) :
    { (s.writeRoundKeys rk).markKeyExpanded with rk := s.rk, status := s.status } = s := rfl

/-- With its three checks passed `KEXP` expands the key bytes of DMEM. -/
theorem exec_kexp_of_le {s : State} (hrun : s.Running) {addr : Addr} {len : Len} (hbox : s.status.sbv = true)
    (hl : len.val * 8 = s.ctrl.ks.keyBits) (h : addr.toNat + len.val ≤ 256) :
    exec (.kexp addr len) s = .next (s.writeRoundKeys
      (expandInto ksTArg s.rk (Memory.readRun s.dmem addr.toNat len.val) s.ctrl.ks s.fwd)).markKeyExpanded := by
  simp only [exec, execKexp, needBox_bind_of_built hbox, keyOperand_of_le hl h]
  exact runCommand_ok hrun _

/-- With a key and an index up to Nr `RK.ST` is a store of the flat round key. -/
theorem exec_rkSt_of_le {s : State} {addr : Addr} {k : Fin 64} (hkey : s.status.kv = true)
    (hk : k.val ≤ s.ctrl.ks.nr) :
    exec (.rkSt addr k) s = runCommand s (memWrite s addr (fromState (roundKey s.rk k.val)).toList) := by
  simp only [exec, execRkSt, needKey_bind_of_expanded hkey, roundKeyOperand_bind_of_le hk]

/-! ### The obligations -/

/-- Settles O47: the two fields of the immediate as numbers, in the order of their checks; the row of `CFG` has the
bits above them reserved. -/
theorem configureCommand : Obligations.ConfigureCommand := by
  refine ⟨fun imm h => decodes_of_toNat_encode (.cfg imm) (wellFormed_cfg_of_lt h) (toNat_formatI0 ..),
    fun n s hrun hlow hhigh => issueWord_of_no_match hrun (no_match_of_cfg_reserved hlow hhigh),
    fun s hrun imm _ => ⟨fun hks => ?_, fun hks hmode => ?_, fun k m hks hmode => ?_⟩⟩
  · simp only [exec, execCfg, keySizeOperand_of_three hks]
    exact runCommand_error hrun .keyParam
  · have hlt : imm.toNat % 4 < 3 := by omega
    simp only [exec, execCfg, keySizeOperand_of_eq ⟨_, hlt⟩ rfl, chainModeOperand_of_gt hmode]
    exact runCommand_error hrun .chainMode
  · simp only [exec, execCfg, keySizeOperand_of_eq k hks, chainModeOperand_of_eq m hmode]
    exact runCommand_ok hrun _

/-- Settles O48: the words below `Nk` are the key's, and the bytes of every other word are those of the next word. -/
theorem keyScheduleRecurrence : Obligations.KeyScheduleRecurrence := by
  refine fun arg key ks fwd _ => ⟨length_scheduleWords arg key ks fwd, fun n j hn => ?_, fun n j hn hlt => ?_⟩
  · rw [wordAt_scheduleWords_of_lt arg key ks fwd hn]
    exact keyWord_getElem key n j.val j.isLt
  · rw [← length_scheduleWords arg key ks fwd] at hlt
    rw [recurrent_scheduleWords arg key ks fwd n hn hlt]
    exact nextWord_getElem arg fwd ks.nk n (n / ks.nk) _ j

/-- Settles O49: the three checks in their order, and the words of the schedule packed into the file up to Nr. -/
theorem expandKeyCommand : Obligations.ExpandKeyCommand := by
  refine ⟨fun a l => decodes_of_toNat_encode (.kexp a l) rfl (toNat_formatM ..), fun s hrun a l =>
    ⟨fun hbox => runCommand_needBox_of_unbuilt hrun hbox _, fun hbox hl => ?_, fun hbox hl h => ?_,
      fun hbox hl h => ?_⟩⟩
  · simp only [exec, execKexp, needBox_bind_of_built hbox, keyOperand_of_length hl]
    exact runCommand_error hrun .keyLength
  · simp only [exec, execKexp, needBox_bind_of_built hbox, keyOperand_of_beyond hl h]
    exact runCommand_error hrun .dmemRange
  · refine ⟨_, exec_kexp_of_le hrun hbox hl h, State.writeRoundKeys_markKeyExpanded_frame .., rfl,
      Memory.readRun s.dmem a.toNat l.val, Memory.length_readRun ..,
      fun j hj => ?_, fun k c j => ⟨fun hk => ?_, fun hk => ?_⟩⟩
    · rw [List.getD_eq_getElem _ _ (by simpa using hj), Memory.getElem_readRun]
    · rw [State.markKeyExpanded_rk, State.writeRoundKeys_rk, getElem_expandInto, if_pos hk, flat_packRoundKey, ksTArg]
    · rw [State.markKeyExpanded_rk, State.writeRoundKeys_rk, getElem_expandInto, if_neg hk.not_ge]

/-- Settles O50: the key is checked first, then the index, then the range of the 16 bytes. -/
theorem storeRoundKeyCommand : Obligations.StoreRoundKeyCommand := by
  refine ⟨fun a k => decodes_of_toNat_encode (.rkSt a k) rfl (toNat_formatM ..), fun s hrun a k =>
    ⟨fun hkey => runCommand_needKey_of_unexpanded hrun hkey _, fun hkey hbeyond => ?_, fun hkey hk h => ?_,
      fun hlt hkey hk h => ?_⟩⟩
  · simp only [exec, execRkSt, needKey_bind_of_expanded hkey, roundKeyOperand_of_beyond hbeyond]
    exact runCommand_error hrun .operandRange
  · rw [exec_rkSt_of_le hkey hk]
    exact runCommand_memWrite_of_beyond hrun (by rw [Vector.length_toList]; omega)
  · have hround : roundKey s.rk k.val = s.rk[k.val] := dif_pos hlt
    have hstores := exists_runCommand_memWrite_stores hrun (addr := a) (by rw [Vector.length_toList]; omega)
      (getElem_fromState (roundKey s.rk k.val))
    rwa [Vector.length_toList, ← exec_rkSt_of_le hkey hk, hround] at hstores

end Sys2Proof.Machine

/-! PROOFS of the family 44_cipher.md. First what each command of the cipher leaves in a running state; then the two
round sequences as folds over the round numbers, and how they undo each other; then runs of commands that transform the
matrix alone; then a block stored and loaded again; then the obligations O51 to O55. -/

namespace Sys2Proof.Machine

open Sys2Proof Sys2Proof.Stated

/-! ### What the commands leave in a running state (42_state_rounds.md R157 to R167; 44_cipher.md R203, R204) -/

theorem KeySize.nr_pos (ks : KeySize) : 0 < ks.nr := by cases ks <;> decide

/-- The round keys of the file are read at the indices it has. -/
theorem roundKey_of_lt (rk : RoundKeys) {k : Nat} (h : k < 15) : roundKey rk k = rk[k] := dif_pos h

section
variable {s : State} (hrun : s.Running)
include hrun

/-- A command that needs a box and makes no other check leaves its state. -/
theorem runCommand_needBox_of_built (hbox : s.status.sbv = true) (t : State) :
    runCommand s (needBox s >>= fun _ => pure t) = .next t := by
  rw [needBox_bind_of_built hbox]; exact runCommand_ok hrun t

/-- A command that needs a key and makes no other check leaves its state. -/
theorem runCommand_needKey_of_expanded (hkey : s.status.kv = true) (t : State) :
    runCommand s (needKey s >>= fun _ => pure t) = .next t := by
  rw [needKey_bind_of_expanded hkey]; exact runCommand_ok hrun t

/-- Every index up to Nr fits the 4-bit field of `ARK`. -/
theorem exec_ark_of_le (hkey : s.status.kv = true) {k : Nat} (hk : k ≤ s.ctrl.ks.nr) :
    exec (.ark (Fin.ofNat 16 k)) s = .next (s.writeMatrix (addRoundKey s.matrix (roundKey s.rk k))) := by
  have hnr := s.ctrl.ks.nr_le
  have hfield : (Fin.ofNat 16 k).val = k := Nat.mod_eq_of_lt (by omega)
  simp only [exec, execArk, needKey_bind_of_expanded hkey, hfield, roundKeyOperand_bind_of_le hk]
  exact runCommand_ok hrun _

theorem exec_encb_writeMatrix (hkey : s.status.kv = true) (m : Matrix) :
    exec .encb (s.writeMatrix m) = .next (s.writeMatrix (s.encryptMatrix m)) :=
  runCommand_needKey_of_expanded (s := s.writeMatrix m) hrun hkey _

theorem exec_decb_writeMatrix (hkey : s.status.kv = true) (m : Matrix) :
    exec .decb (s.writeMatrix m) = .next (s.writeMatrix (s.decryptMatrix m)) :=
  runCommand_needKey_of_expanded (s := s.writeMatrix m) hrun hkey _

theorem exec_stLd_of_le {addr : Addr} {len : Len} (hl : len.val ≤ 16) (h : addr.toNat + len.val ≤ 256) :
    exec (.stLd addr len) s = .next (s.writeMatrix (toState (Memory.readRun s.dmem addr.toNat len.val))) :=
  runCommand_blockOperand_of_le hrun hl h toState

end

/-! ### The round sequences over the round numbers (R200, R201) -/

/-- The full rounds of `Encrypt` take the round numbers in ascending order. -/
theorem encryptRounds_eq_foldl (rk : RoundKeys) (fwd : Table) (n : Nat) (m : Matrix) :
    encryptRounds rk fwd n m = (List.range' 1 n).foldl (encryptRound rk fwd) m := by
  induction n with
  | zero => rfl
  | succ n ih => rw [encryptRounds, ih, List.range'_concat, List.foldl_concat, one_mul, Nat.add_comm]

/-- The matrix after the passes of `Decrypt` for the round numbers from `n` down to `i`. -/
def decryptDownTo (rk : RoundKeys) (inv : Table) (n : Nat) (m : Matrix) (i : Nat) : Matrix :=
  (List.range' i (n + 1 - i)).reverse.foldl (decryptRound rk inv) m

theorem decryptDownTo_succ (rk : RoundKeys) (inv : Table) (n : Nat) (m : Matrix) :
    decryptDownTo rk inv n m (n + 1) = m := by
  rw [decryptDownTo, Nat.sub_self]; rfl

theorem decryptDownTo_of_le (rk : RoundKeys) (inv : Table) {n i : Nat} (m : Matrix) (h : i ≤ n) :
    decryptDownTo rk inv n m i = decryptRound rk inv (decryptDownTo rk inv n m (i + 1)) i := by
  rw [decryptDownTo, Nat.succ_sub h, List.range'_succ, List.reverse_cons, List.foldl_concat, decryptDownTo,
    Nat.add_sub_add_right]

/-- The passes of `Decrypt` take the round numbers in descending order. -/
theorem decryptRounds_eq_foldl (rk : RoundKeys) (inv : Table) (n : Nat) (m : Matrix) :
    decryptRounds rk inv n m = (List.range' 1 n).reverse.foldl (decryptRound rk inv) m := by
  induction n generalizing m with
  | zero => rfl
  | succ n ih =>
    rw [decryptRounds, ih, List.range'_concat, List.reverse_concat, List.foldl_cons, one_mul, Nat.add_comm 1 n]

theorem decryptRounds_eq_decryptDownTo (rk : RoundKeys) (inv : Table) (n : Nat) (m : Matrix) :
    decryptRounds rk inv n m = decryptDownTo rk inv n m 1 := decryptRounds_eq_foldl rk inv n m

/-! ### The round sequences undo each other (R202) -/

section
variable {fwd inv : Table} (h : BoxesInverse fwd inv) (rk : RoundKeys)
include h

/-- What the substitution and the row shift of the next round have made of a full round, a pass of `Decrypt` undoes. -/
theorem decryptRound_encryptRound (m : Matrix) (i : Nat) :
    decryptRound rk inv (shiftRows .forward (byteSubstitution (encryptRound rk fwd m i) fwd)) i =
      shiftRows .forward (byteSubstitution m fwd) := by
  rw [decryptRound, shiftRows_inverse_forward, byteSubstitution_byteSubstitution _ h.1, encryptRound,
    addRoundKey_addRoundKey, mixColumns_inverse_forward]

/-- A full round undoes a pass of `Decrypt`, up to the row shift and the substitution of the pass after it. -/
theorem encryptRound_decryptRound (m : Matrix) (i : Nat) :
    encryptRound rk fwd (byteSubstitution (shiftRows .inverse (decryptRound rk inv m i)) inv) i =
      byteSubstitution (shiftRows .inverse m) inv := by
  rw [encryptRound, byteSubstitution_byteSubstitution _ h.2, shiftRows_forward_inverse, decryptRound,
    mixColumns_forward_inverse, addRoundKey_addRoundKey]

theorem decryptRounds_encryptRounds (n : Nat) (m : Matrix) :
    decryptRounds rk inv n (shiftRows .forward (byteSubstitution (encryptRounds rk fwd n m) fwd)) =
      shiftRows .forward (byteSubstitution m fwd) := by
  induction n with
  | zero => rfl
  | succ n ih => rw [decryptRounds, encryptRounds, decryptRound_encryptRound h, ih]

theorem encryptRounds_decryptRounds (n : Nat) (m : Matrix) :
    encryptRounds rk fwd n (byteSubstitution (shiftRows .inverse (decryptRounds rk inv n m)) inv) =
      byteSubstitution (shiftRows .inverse m) inv := by
  induction n generalizing m with
  | zero => rfl
  | succ n ih => rw [encryptRounds, decryptRounds, ih, encryptRound_decryptRound h]

theorem decrypt_encrypt (nr : Nat) (m : Matrix) : decrypt rk inv nr (encrypt rk fwd nr m) = m := by
  rw [decrypt, encrypt, addRoundKey_addRoundKey, decryptRounds_encryptRounds h, shiftRows_inverse_forward,
    byteSubstitution_byteSubstitution _ h.1, addRoundKey_addRoundKey]

theorem encrypt_decrypt (nr : Nat) (m : Matrix) : encrypt rk fwd nr (decrypt rk inv nr m) = m := by
  rw [encrypt, decrypt, addRoundKey_addRoundKey, encryptRounds_decryptRounds h, byteSubstitution_byteSubstitution _ h.2,
    shiftRows_forward_inverse, addRoundKey_addRoundKey]

end

theorem State.decryptMatrix_encryptMatrix {s : State} (h : BoxesInverse s.fwd s.inv) (m : Matrix) :
    s.decryptMatrix (s.encryptMatrix m) = m := decrypt_encrypt h s.rk s.ctrl.ks.nr m

theorem State.encryptMatrix_decryptMatrix {s : State} (h : BoxesInverse s.fwd s.inv) (m : Matrix) :
    s.encryptMatrix (s.decryptMatrix m) = m := encrypt_decrypt h s.rk s.ctrl.ks.nr m

/-! ### Runs of commands that transform the matrix (R206) -/

/-- A run of commands goes on with the rest in the state its first command leaves. -/
theorem execAll_cons {i : Instr} {s t : State} (h : exec i s = .next t) (is : List Instr) :
    execAll (i :: is) s = execAll is t := by rw [execAll, h]

theorem execAll_append {is js : List Instr} {s t : State} (h : execAll is s = .next t) :
    execAll (is ++ js) s = execAll js t := by
  induction is generalizing s with
  | nil => cases h; rfl
  | cons i is ih =>
    rw [execAll] at h
    rw [List.cons_append, execAll]
    split at h
    · exact ih h
    all_goals cases h

/-- Begun with any matrix `m` in the state `s`, the commands complete, put `f m` in its place and change nothing
else. -/
def Transforms (s : State) (is : List Instr) (f : Matrix → Matrix) : Prop :=
  ∀ m, execAll is (s.writeMatrix m) = .next (s.writeMatrix (f m))

theorem Transforms.nil (s : State) : Transforms s [] fun m => m := fun _ => rfl

/-- A command that puts `f m` in the place of any `m`, as a run of its own. -/
theorem Transforms.of_exec {s : State} {i : Instr} {f : Matrix → Matrix}
    (h : ∀ m, exec i (s.writeMatrix m) = .next (s.writeMatrix (f m))) : Transforms s [i] f :=
  fun m => execAll_cons (h m) []

theorem Transforms.append {s : State} {is js : List Instr} {f g : Matrix → Matrix} (hi : Transforms s is f)
    (hj : Transforms s js g) : Transforms s (is ++ js) fun m => g (f m) :=
  fun m => (execAll_append (hi m)).trans (hj (f m))

/-- One run of commands for each element of a list, one after the other. -/
theorem Transforms.flatMap {α : Type} {s : State} {l : List α} {is : α → List Instr} {f : Matrix → α → Matrix}
    (h : ∀ a ∈ l, Transforms s (is a) fun m => f m a) : Transforms s (l.flatMap is) fun m => l.foldl f m := by
  induction l with
  | nil => exact .nil s
  | cons a l ih =>
    rw [List.flatMap_cons]
    exact (h a List.mem_cons_self).append (ih fun b hb => h b (List.mem_cons_of_mem a hb))

theorem Transforms.execAll_eq {s : State} {is : List Instr} {f : Matrix → Matrix} (h : Transforms s is f) :
    execAll is s = .next (s.writeMatrix (f s.matrix)) := h s.matrix

section
variable {s : State} (hrun : s.Running)
include hrun

theorem transforms_subbytes (hbox : s.status.sbv = true) :
    Transforms s [.subbytes] fun m => byteSubstitution m s.fwd :=
  .of_exec fun m => runCommand_needBox_of_built (s := s.writeMatrix m) hrun hbox _

theorem transforms_isubbytes (hbox : s.status.sbv = true) :
    Transforms s [.isubbytes] fun m => byteSubstitution m s.inv :=
  .of_exec fun m => runCommand_needBox_of_built (s := s.writeMatrix m) hrun hbox _

theorem transforms_shiftrows : Transforms s [.shiftrows] (shiftRows .forward) :=
  .of_exec fun m => runCommand_ok (s := s.writeMatrix m) hrun _

theorem transforms_ishiftrows : Transforms s [.ishiftrows] (shiftRows .inverse) :=
  .of_exec fun m => runCommand_ok (s := s.writeMatrix m) hrun _

theorem transforms_mixcols : Transforms s [.mixcols] (mixColumns .forward) :=
  .of_exec fun m => runCommand_ok (s := s.writeMatrix m) hrun _

theorem transforms_imixcols : Transforms s [.imixcols] (mixColumns .inverse) :=
  .of_exec fun m => runCommand_ok (s := s.writeMatrix m) hrun _

theorem transforms_ark (hkey : s.status.kv = true) {k : Nat} (hk : k ≤ s.ctrl.ks.nr) :
    Transforms s [.ark (Fin.ofNat 16 k)] fun m => addRoundKey m (roundKey s.rk k) :=
  .of_exec fun m => exec_ark_of_le (s := s.writeMatrix m) hrun hkey hk

variable (hkey : s.status.kv = true) (hbox : s.status.sbv = true)
include hkey hbox

/-- The four commands of a full round are the round. -/
theorem transforms_encryptRound {k : Nat} (hk : k ≤ s.ctrl.ks.nr) :
    Transforms s [.subbytes, .shiftrows, .mixcols, .ark (Fin.ofNat 16 k)] fun m => encryptRound s.rk s.fwd m k :=
  have hround := (transforms_subbytes hrun hbox).append <| (transforms_shiftrows hrun).append <|
    (transforms_mixcols hrun).append (transforms_ark hrun hkey hk)
  hround

/-- The four commands of a pass of `Decrypt` are the pass. -/
theorem transforms_decryptRound {k : Nat} (hk : k ≤ s.ctrl.ks.nr) :
    Transforms s [.ishiftrows, .isubbytes, .ark (Fin.ofNat 16 k), .imixcols] fun m => decryptRound s.rk s.inv m k :=
  have hpass := (transforms_ishiftrows hrun).append <| (transforms_isubbytes hrun hbox).append <|
    (transforms_ark hrun hkey hk).append (transforms_imixcols hrun)
  hpass

/-- The round commands of R206 in the order of R200 are `Encrypt`. -/
theorem transforms_encryptMatrix :
    Transforms s (.ark 0 :: (List.range' 1 (s.ctrl.ks.nr - 1)).flatMap
        (fun i => [.subbytes, .shiftrows, .mixcols, .ark (Fin.ofNat 16 i)]) ++
      [.subbytes, .shiftrows, .ark (Fin.ofNat 16 s.ctrl.ks.nr)]) s.encryptMatrix := by
  have hrounds := Transforms.flatMap fun i (hi : i ∈ List.range' 1 (s.ctrl.ks.nr - 1)) =>
    transforms_encryptRound hrun hkey hbox (k := i) (by rw [List.mem_range'_1] at hi; omega)
  have hfinal := (transforms_subbytes hrun hbox).append <| (transforms_shiftrows hrun).append
    (transforms_ark hrun hkey (le_refl s.ctrl.ks.nr))
  have hall := ((transforms_ark hrun hkey (Nat.zero_le _)).append hrounds).append hfinal
  simp only [← encryptRounds_eq_foldl] at hall
  exact hall

/-- The round commands of R206 in the order of R201 are `Decrypt`. -/
theorem transforms_decryptMatrix :
    Transforms s (.ark (Fin.ofNat 16 s.ctrl.ks.nr) :: (List.range' 1 (s.ctrl.ks.nr - 1)).reverse.flatMap
        (fun i => [.ishiftrows, .isubbytes, .ark (Fin.ofNat 16 i), .imixcols]) ++
      [.ishiftrows, .isubbytes, .ark 0]) s.decryptMatrix := by
  have hpasses := Transforms.flatMap fun i (hi : i ∈ (List.range' 1 (s.ctrl.ks.nr - 1)).reverse) =>
    transforms_decryptRound hrun hkey hbox (k := i) (by rw [List.mem_reverse, List.mem_range'_1] at hi; omega)
  have hfinal := (transforms_ishiftrows hrun).append <| (transforms_isubbytes hrun hbox).append
    (transforms_ark hrun hkey (Nat.zero_le _))
  have hall := ((transforms_ark hrun hkey (le_refl s.ctrl.ks.nr)).append hpasses).append hfinal
  simp only [← decryptRounds_eq_foldl] at hall
  exact hall

end

/-! ### A block in DMEM (R205) -/

/-- A stored run reads back. -/
theorem Memory.readRun_writeRun (m : Memory) (a : Nat) (v : List Byte) :
    Memory.readRun (Memory.writeRun m a v) a v.length = v := by
  refine List.ext_getElem (Memory.length_readRun ..) fun i hi hv => ?_
  rw [Memory.getElem_readRun, Memory.read_writeRun, dif_pos (by omega)]
  simp only [Nat.add_sub_cancel_left]

/-- `ST.ST` and `ST.LD` of a whole block at one address give the matrix back. -/
theorem toState_readRun_writeRun (mem : Memory) (a : Nat) (m : Matrix) :
    toState (Memory.readRun (Memory.writeRun mem a (fromState m).toList) a 16) = m := by
  have hrun := Memory.readRun_writeRun mem a (fromState m).toList
  rw [Vector.length_toList] at hrun
  rw [hrun]; exact blockToState_fromState m

theorem State.Running.writeDmem {s : State} (h : s.Running) (d : Memory) : (s.writeDmem d).Running := h

theorem State.decryptMatrix_writeDmem (s : State) (d : Memory) (m : Matrix) :
    (s.writeDmem d).decryptMatrix m = s.decryptMatrix m := rfl

section
variable {s : State} (hrun : s.Running) {addr : Addr} (haddr : addr.toNat ≤ 240)
include hrun haddr

/-- `ST.ST` of a whole block changes DMEM alone, and the matrix can be loaded again from there. -/
theorem exists_exec_stSt_block : ∃ d, exec (.stSt addr 16) s = .next (s.writeDmem d) ∧
    toState (Memory.readRun d addr.toNat 16) = s.matrix := by
  have hall : (fromState s.matrix).toList.take (16 : Len).val = (fromState s.matrix).toList :=
    List.take_of_length_le Vector.length_toList.le
  have hfit : addr.toNat + (fromState s.matrix).toList.length ≤ 256 := by rw [Vector.length_toList]; omega
  refine ⟨_, ?_, toState_readRun_writeRun s.dmem addr.toNat s.matrix⟩
  rw [exec_stSt_of_le (by decide), hall, memWrite_of_le hfit]
  exact runCommand_ok hrun _

theorem exec_stLd_block : exec (.stLd addr 16) s =
    .next (s.writeMatrix (toState (Memory.readRun s.dmem addr.toNat 16))) := by
  have hfit : addr.toNat + (16 : Len).val ≤ 256 := Nat.add_le_add_right haddr 16
  exact exec_stLd_of_le hrun (by decide) hfit

/-- A matrix encrypted, taken through DMEM and decrypted is as it was: only DMEM has changed. -/
theorem exists_execAll_encb_stSt_stLd_decb (hkey : s.status.kv = true) (hbox : BoxesInverse s.fwd s.inv)
    (m : Matrix) : ∃ d, execAll [.encb, .stSt addr 16, .stLd addr 16, .decb] (s.writeMatrix m) =
      .next ((s.writeDmem d).writeMatrix m) := by
  obtain ⟨d, hstore, hmatrix⟩ := exists_exec_stSt_block (s := s.writeMatrix (s.encryptMatrix m)) hrun haddr
  refine ⟨d, ?_⟩
  have hload := exec_stLd_block (s := (s.writeMatrix (s.encryptMatrix m)).writeDmem d) hrun haddr
  have hdecrypt := exec_decb_writeMatrix (hrun.writeDmem d) hkey (s.encryptMatrix m)
  rw [State.writeDmem_dmem, hmatrix] at hload
  rw [State.decryptMatrix_writeDmem, State.decryptMatrix_encryptMatrix hbox] at hdecrypt
  rw [execAll_cons (exec_encb_writeMatrix hrun hkey m), execAll_cons hstore, execAll_cons hload]
  exact execAll_cons hdecrypt []

end

/-! ### The obligations -/

/-- Settles O51: the matrices after the full rounds are those of `encryptRounds`. -/
theorem encryptBlockRounds : Obligations.EncryptBlockRounds := by
  refine ⟨decodes_of_encode .encb rfl rfl, fun s hrun => ⟨fun hkey => runCommand_needKey_of_unexpanded hrun hkey _,
    fun hkey => ⟨_, exec_encb_writeMatrix hrun hkey s.matrix, rfl,
      fun i => encryptRounds s.rk s.fwd i (addRoundKey s.matrix s.rk[0]), rfl, fun i hi hpos _ => ?_, fun h => ?_⟩⟩⟩
  · obtain ⟨i, rfl⟩ := Nat.exists_eq_add_of_le' hpos
    simp only [encryptRounds, encryptRound, roundKey_of_lt _ hi, Nat.add_sub_cancel]
  · rw [State.writeMatrix_matrix, State.encryptMatrix, encrypt, roundKey_of_lt _ h,
      roundKey_of_lt _ (by decide : 0 < 15)]

/-- Settles O52: the matrices after the passes, from the pass of round Nr - 1 down to that of round 1. -/
theorem decryptBlockRounds : Obligations.DecryptBlockRounds := by
  refine ⟨decodes_of_encode .decb rfl rfl, fun s hrun => ⟨fun hkey => runCommand_needKey_of_unexpanded hrun hkey _,
    fun hkey => ⟨_, exec_decb_writeMatrix hrun hkey s.matrix, rfl, decryptDownTo s.rk s.inv (s.ctrl.ks.nr - 1)
      (addRoundKey s.matrix (roundKey s.rk s.ctrl.ks.nr)), fun h => ?_, fun i hi _ hlt => ?_, ?_⟩⟩⟩
  · have hnr : s.ctrl.ks.nr - 1 + 1 = s.ctrl.ks.nr := Nat.sub_add_cancel s.ctrl.ks.nr_pos
    rw [← roundKey_of_lt _ h]
    exact hnr ▸ decryptDownTo_succ ..
  · rw [decryptDownTo_of_le _ _ _ (by omega), decryptRound, roundKey_of_lt _ hi]
  · rw [State.writeMatrix_matrix, State.decryptMatrix, decrypt, decryptRounds_eq_decryptDownTo,
      roundKey_of_lt _ (by decide : 0 < 15)]

/-- Settles O53: the two functions of the matrix undo each other, and no command writes what they depend on. -/
theorem decryptUndoesEncrypt : Obligations.DecryptUndoesEncrypt := by
  refine fun s hrun hkey hbox => ⟨⟨_, exec_encb_writeMatrix hrun hkey s.matrix, ?_⟩,
    ⟨_, exec_decb_writeMatrix hrun hkey s.matrix, ?_⟩⟩
  · rw [exec_decb_writeMatrix hrun hkey, State.decryptMatrix_encryptMatrix hbox]; rfl
  · rw [exec_encb_writeMatrix hrun hkey, State.encryptMatrix_decryptMatrix hbox]; rfl

/-- Settles O54: the matrix goes through the block at `mid` unchanged, so `DECB` gives back the one that was loaded. -/
theorem decryptedBlockIsTheZeroPaddedBlock : Obligations.DecryptedBlockIsTheZeroPaddedBlock := by
  intro s hrun hkey hbox src mid dst n hn hsrc hmid hdst
  obtain ⟨d, hthrough⟩ := exists_execAll_encb_stSt_stLd_decb hrun hmid hkey hbox
    (toState (Memory.readRun s.dmem src.toNat n.val))
  obtain ⟨e, hstore, hmatrix⟩ := exists_exec_stSt_block (s := (s.writeDmem d).writeMatrix _) hrun hdst
  refine ⟨_, (execAll_cons (exec_stLd_of_le hrun hn hsrc) _).trans <|
    (execAll_append hthrough).trans (execAll_cons hstore []), fun j hj => ?_⟩
  have hflat := congrArg (fun m => flat m ⟨j, hj⟩) hmatrix
  simpa only [byteAt, State.writeDmem_dmem, State.writeMatrix_matrix, flat_toState_readRun, hj, if_true] using hflat

/-- Settles O55: both sides put the same function of the matrix in its place. -/
theorem blockCommandsEqualTheRoundCommands : Obligations.BlockCommandsEqualTheRoundCommands := fun s hrun hkey hbox =>
  ⟨⟨_, exec_encb_writeMatrix hrun hkey s.matrix, (transforms_encryptMatrix hrun hkey hbox).execAll_eq⟩,
    ⟨_, exec_decb_writeMatrix hrun hkey s.matrix, (transforms_decryptMatrix hrun hkey hbox).execAll_eq⟩⟩

end Sys2Proof.Machine

/-! PROOFS of the family 45_chaining.md. First what the two chain commands leave in a running state, and what each mode
makes of a block; then how a mode's decryption undoes its encryption; then the obligations O56 to O59. -/

namespace Sys2Proof.Machine

open Sys2Proof Sys2Proof.Stated

/-! ### The bytes of a block (45_chaining.md, opening) -/

/-- The block in S is its flat bytes (10_state.md R27). -/
theorem getElem_fin_fromState (m : Matrix) (i : Fin 16) : (fromState m)[i] = flat m i :=
  fromState_getElem m i.val i.isLt

theorem getElem_fin_xorBlock (x y : Block) (i : Fin 16) : (xorBlock x y)[i] = x[i] ^^^ y[i] :=
  xorBlock_getElem x y i.val i.isLt

/-- A keystream block added twice cancels. -/
theorem xorBlock_xorBlock (x k : Block) : xorBlock (xorBlock x k) k = x :=
  Vector.ext fun i hi => by rw [xorBlock_getElem, xorBlock_getElem, BitVec.xor_assoc, BitVec.xor_self, BitVec.xor_zero]

/-! ### What the commands leave in a running state with a key (45_chaining.md R217, R218) -/

section
variable {s : State} (hrun : s.Running) (hkey : s.status.kv = true)
include hrun hkey

theorem exec_chEnc_of_expanded : exec .chEnc s = .next (s.writeChained (s.chainEncrypt (fromState s.matrix))) :=
  runCommand_needKey_of_expanded hrun hkey _

theorem exec_chDec_of_expanded : exec .chDec s = .next (s.writeChained (s.chainDecrypt (fromState s.matrix))) :=
  runCommand_needKey_of_expanded hrun hkey _

/-- `CH.DEC` of a block put into S: the old matrix is of no account. -/
theorem exec_chDec_writeMatrix (b : Block) :
    exec .chDec (s.writeMatrix (blockToState b)) = .next (s.writeChained (s.chainDecrypt b)) := by
  have hdec := exec_chDec_of_expanded (s := s.writeMatrix (blockToState b)) hrun hkey
  rwa [State.writeMatrix_matrix, fromState_blockToState] at hdec

/-- The block function forward is what `ENCB` does to a block. -/
theorem encryptsTo_encryptBlock (b : Block) : EncryptsTo s b (s.encryptBlock b) := by
  have hencb := exec_encb_writeMatrix hrun hkey (blockToState b)
  rwa [← blockToState_fromState (s.encryptMatrix (blockToState b))] at hencb

/-- The block function inverse is what `DECB` does to a block. -/
theorem decryptsTo_decryptBlock (b : Block) : DecryptsTo s b (s.decryptBlock b) := by
  have hdecb := exec_decb_writeMatrix hrun hkey (blockToState b)
  rwa [← blockToState_fromState (s.decryptMatrix (blockToState b))] at hdecb

end

/-! ### The result block and the new chain register, by mode (45_chaining.md R212 to R215) -/

section
variable {s : State} (x : Block)

theorem State.chainEncrypt_of_ecb (h : s.ctrl.mode = .ecb) : s.chainEncrypt x = (s.encryptBlock x, s.chain) := by
  rw [State.chainEncrypt, h]

theorem State.chainEncrypt_of_cbc (h : s.ctrl.mode = .cbc) :
    s.chainEncrypt x = (s.encryptBlock (xorBlock x s.chain), s.encryptBlock (xorBlock x s.chain)) := by
  rw [State.chainEncrypt, h]

theorem State.chainEncrypt_of_ofb (h : s.ctrl.mode = .ofb) :
    s.chainEncrypt x = (xorBlock x (s.encryptBlock s.chain), s.encryptBlock s.chain) := by
  rw [State.chainEncrypt, h]

theorem State.chainEncrypt_of_cfb (h : s.ctrl.mode = .cfb) :
    s.chainEncrypt x = (xorBlock x (s.encryptBlock s.chain), xorBlock x (s.encryptBlock s.chain)) := by
  rw [State.chainEncrypt, h]

theorem State.chainDecrypt_of_ecb (h : s.ctrl.mode = .ecb) : s.chainDecrypt x = (s.decryptBlock x, s.chain) := by
  rw [State.chainDecrypt, h]

theorem State.chainDecrypt_of_cbc (h : s.ctrl.mode = .cbc) :
    s.chainDecrypt x = (xorBlock (s.decryptBlock x) s.chain, x) := by
  rw [State.chainDecrypt, h]

theorem State.chainDecrypt_of_ofb (h : s.ctrl.mode = .ofb) :
    s.chainDecrypt x = (xorBlock x (s.encryptBlock s.chain), s.encryptBlock s.chain) := by
  rw [State.chainDecrypt, h]

theorem State.chainDecrypt_of_cfb (h : s.ctrl.mode = .cfb) :
    s.chainDecrypt x = (xorBlock x (s.encryptBlock s.chain), x) := by
  rw [State.chainDecrypt, h]

/-! ### Decryption undoes encryption in each mode -/

theorem State.decryptBlock_encryptBlock (h : BoxesInverse s.fwd s.inv) :
    s.decryptBlock (s.encryptBlock x) = x := by
  rw [State.decryptBlock, State.encryptBlock, blockToState_fromState, State.decryptMatrix_encryptMatrix h,
    fromState_blockToState]

/-- Under one chain register the block comes back, and both directions leave the same new chain register: E and D undo
each other in ECB and CBC, the keystream cancels in OFB and CFB. -/
theorem State.chainDecrypt_chainEncrypt (h : BoxesInverse s.fwd s.inv) :
    s.chainDecrypt (s.chainEncrypt x).1 = (x, (s.chainEncrypt x).2) := by
  cases hmode : s.ctrl.mode with
  | ecb => rw [chainEncrypt_of_ecb x hmode, chainDecrypt_of_ecb _ hmode, decryptBlock_encryptBlock x h]
  | cbc =>
    rw [chainEncrypt_of_cbc x hmode, chainDecrypt_of_cbc _ hmode, decryptBlock_encryptBlock _ h, xorBlock_xorBlock]
  | ofb => rw [chainEncrypt_of_ofb x hmode, chainDecrypt_of_ofb _ hmode, xorBlock_xorBlock]
  | cfb => rw [chainEncrypt_of_cfb x hmode, chainDecrypt_of_cfb _ hmode, xorBlock_xorBlock]

end

/-! ### The obligations -/

/-- Settles O56: `CH.INIT` makes no check, and `CH.ST` is a store of the 16 bytes of R. -/
theorem initAndStoreChainRegister : Obligations.InitAndStoreChainRegister := by
  refine ⟨decodes_of_encode .chInit rfl rfl, fun a => decodes_of_toNat_encode (.chSt a) rfl (toNat_formatM ..),
    fun s hrun => ⟨⟨_, runCommand_ok hrun _, rfl, fun i => Vector.getElem_replicate i.isLt⟩, fun a =>
      ⟨fun h => ?_, fun h => ?_⟩⟩⟩
  · exact runCommand_memWrite_of_beyond hrun (by rw [Vector.length_toList]; omega)
  · have hbytes : ∀ j (hj : j < s.chain.toList.length), s.chain.toList[j] = if h : j < 16 then s.chain[j] else 0 :=
      fun j hj => by rw [dif_pos (hj.trans_eq Vector.length_toList), Vector.getElem_toList]
    have hstores := exists_runCommand_memWrite_stores hrun (addr := a) (by rw [Vector.length_toList]; omega) hbytes
    rwa [Vector.length_toList] at hstores

/-- Settles O57: the intermediate block is the input of E in CBC and the keystream in OFB and CFB; ECB has none. -/
theorem chainedEncryption : Obligations.ChainedEncryption := by
  refine ⟨decodes_of_encode .chEnc rfl rfl, fun s hrun => ⟨fun hkey => runCommand_needKey_of_unexpanded hrun hkey _,
    fun hkey => ?_⟩⟩
  have hexec := exec_chEnc_of_expanded hrun hkey
  have hE := encryptsTo_encryptBlock hrun hkey
  have hx := getElem_fin_fromState s.matrix
  cases hmode : s.ctrl.mode with
  | ecb =>
    rw [State.chainEncrypt_of_ecb _ hmode] at hexec
    exact ⟨_, _, s.chain, _, hx, hexec, hE _, rfl⟩
  | cbc =>
    rw [State.chainEncrypt_of_cbc _ hmode] at hexec
    exact ⟨_, _, _, _, hx, hexec, getElem_fin_xorBlock _ _, hE _, rfl⟩
  | ofb =>
    rw [State.chainEncrypt_of_ofb _ hmode] at hexec
    exact ⟨_, _, _, _, hx, hexec, hE _, getElem_fin_xorBlock _ _, rfl⟩
  | cfb =>
    rw [State.chainEncrypt_of_cfb _ hmode] at hexec
    exact ⟨_, _, _, _, hx, hexec, hE _, getElem_fin_xorBlock _ _, rfl⟩

/-- Settles O58: the intermediate block is the output of D in CBC and the keystream in OFB and CFB; ECB has none. -/
theorem chainedDecryption : Obligations.ChainedDecryption := by
  refine ⟨decodes_of_encode .chDec rfl rfl, fun s hrun => ⟨fun hkey => runCommand_needKey_of_unexpanded hrun hkey _,
    fun hkey => ?_⟩⟩
  have hexec := exec_chDec_of_expanded hrun hkey
  have hE := encryptsTo_encryptBlock hrun hkey
  have hD := decryptsTo_decryptBlock hrun hkey
  have hx := getElem_fin_fromState s.matrix
  cases hmode : s.ctrl.mode with
  | ecb =>
    rw [State.chainDecrypt_of_ecb _ hmode] at hexec
    exact ⟨_, _, s.chain, _, hx, hexec, hD _, rfl⟩
  | cbc =>
    rw [State.chainDecrypt_of_cbc _ hmode] at hexec
    exact ⟨_, _, _, _, hx, hexec, hD _, getElem_fin_xorBlock _ _, rfl⟩
  | ofb =>
    rw [State.chainDecrypt_of_ofb _ hmode] at hexec
    exact ⟨_, _, _, _, hx, hexec, hE _, getElem_fin_xorBlock _ _, rfl⟩
  | cfb =>
    rw [State.chainDecrypt_of_cfb _ hmode] at hexec
    exact ⟨_, _, _, _, hx, hexec, hE _, getElem_fin_xorBlock _ _, rfl⟩

/-- Settles O59: with R put back, `CH.DEC` finds the encrypted block in S and everything else as `CH.ENC` did. -/
theorem chainedDecryptionUndoesEncryption : Obligations.ChainedDecryptionUndoesEncryption := by
  intro s hrun hkey hbox
  have hdec := exec_chDec_writeMatrix hrun hkey (s.chainEncrypt (fromState s.matrix)).1
  rw [State.chainDecrypt_chainEncrypt _ hbox] at hdec
  refine ⟨_, _, exec_chEnc_of_expanded hrun hkey, hdec, blockToState_fromState s.matrix, ?_⟩
  rw [State.writeChained_chain, State.writeChained_chain]

end Sys2Proof.Machine

/-! PROOFS of the family 60_exceptions.md. First what a halted unit makes of a command word; then each check of a
command beside the column of R235 that it fills, and the 41 commands as sequences of these checks; then `NOP`. The
obligations are O11, O12 and O18. -/

namespace Sys2Proof.Machine

open Sys2Proof Sys2Proof.Stated

/-! ### The halted state (60_exceptions.md R232) -/

theorem exec_of_halted {s : State} (h : s.status.err = true) (i : Instr) : exec i s = .next s := by
  obtain ⟨r, hr⟩ := exists_operation i s
  rw [hr, runCommand_of_halted h]

theorem issueWord_of_halted {s : State} (h : s.status.err = true) (w : CommandWord) : issueWord w s = .next s := by
  rw [issueWord]
  cases decodeWord w with
  | ok i => exact exec_of_halted h i
  | error e => exact runCommand_of_halted h _

/-- Settles O11: the word is taken from the pending actions, and neither a command nor an illegal word does more. -/
theorem haltedUnitIgnoresEveryCommandWord : Obligations.HaltedUnitIgnoresEveryCommandWord := by
  intro s w rest hhalted hhost
  rw [step_of_host hhost]
  exact issueWord_of_halted (s := s.writeHost rest) hhalted w

/-! ### The checks of the commands, and the columns of R235 (60_exceptions.md R230 to R235)

Each check stands before what the command goes on to do, and its fault before the faults of the rest, as R234 orders
them. -/

/-- The outcome that R235 gives a command in state `s`: the fault of the code, or completion with no fault taken. -/
def TakesFault (s : State) (o : Outcome) : Option (BitVec 4) → Prop
  | some c => o = .next (faulted s c)
  | none => ∃ t, o = .next t ∧ t.status.err = false ∧ t.status.cause = s.status.cause

section
variable {s : State} (hrun : s.Running) {c : Option (BitVec 4)}
include hrun

/-- A command with no check left completes when the state it leaves has the fault fields of its own. -/
theorem takesFault_ok {t : State} (herr : t.status.err = s.status.err) (hcause : t.status.cause = s.status.cause) :
    TakesFault s (runCommand s (.ok t)) none :=
  ⟨t, runCommand_ok hrun t, herr.trans hrun, hcause⟩

theorem takesFault_needBox {f : Unit → Except FaultCode State} (hf : TakesFault s (runCommand s (f ())) c) :
    TakesFault s (runCommand s (needBox s >>= f)) (if s.status.sbv = false then some 7 else c) := by
  split
  next hbox => exact runCommand_needBox_of_unbuilt hrun hbox f
  next hbox => rwa [needBox_bind_of_built (Bool.eq_true_of_not_eq_false hbox)]

theorem takesFault_needKey {f : Unit → Except FaultCode State} (hf : TakesFault s (runCommand s (f ())) c) :
    TakesFault s (runCommand s (needKey s >>= f)) (if s.status.kv = false then some 8 else c) := by
  split
  next hkey => exact runCommand_needKey_of_unexpanded hrun hkey f
  next hkey => rwa [needKey_bind_of_expanded (Bool.eq_true_of_not_eq_false hkey)]

theorem takesFault_byteOperand {a : Reg} {f : Byte → Except FaultCode State}
    (hf : ∀ b, TakesFault s (runCommand s (f b)) c) :
    TakesFault s (runCommand s (byteOperand s a >>= f)) (if s.p[a].toNat > 255 then some 10 else c) := by
  split
  next hwide => exact runCommand_byteOperand_of_wide hrun hwide f
  next hbyte =>
    rw [byteOperand_of_byte (Nat.le_of_not_lt hbyte)]
    exact hf _

theorem takesFault_divisor {b : Reg} {t : State} (ht : t.status = s.status) :
    TakesFault s (runCommand s (if s.poly b = 0 then .error .divZero else .ok t))
      (if s.p[b] = 0 then some 1 else none) := by
  by_cases hzero : s.p[b] = 0
  · have hpoly : s.poly b = 0 := congrArg BitVec.toNat hzero
    rw [if_pos hzero, if_pos hpoly]
    exact runCommand_error hrun .divZero
  · have hpoly : s.poly b ≠ 0 := fun h => hzero (BitVec.eq_of_toNat_eq h)
    rw [if_neg hzero, if_neg hpoly]
    exact takesFault_ok hrun (congrArg Status.err ht) (congrArg Status.cause ht)

/-- What follows a length check may rely on the length. -/
theorem takesFault_blockLength {len : Len} {f : Nat → Except FaultCode State}
    (hf : len.val ≤ 16 → TakesFault s (runCommand s (f len.val)) c) :
    TakesFault s (runCommand s (blockLength len >>= f)) (if len.val > 16 then some 2 else c) := by
  split
  next hlong =>
    rw [blockLength_of_long hlong]
    exact runCommand_error hrun .blockTooLong
  next hle =>
    rw [blockLength_of_le (Nat.le_of_not_lt hle)]
    exact hf (Nat.le_of_not_lt hle)

theorem takesFault_memRead {addr : Addr} {n : Nat} {f : List Byte → Except FaultCode State}
    (hf : ∀ v, TakesFault s (runCommand s (f v)) c) :
    TakesFault s (runCommand s (memRead s addr n >>= f)) (if addr.toNat + n > 256 then some 9 else c) := by
  split
  next hbeyond =>
    rw [memRead_of_beyond hbeyond]
    exact runCommand_error hrun .dmemRange
  next hle =>
    rw [memRead_of_le (Nat.le_of_not_lt hle)]
    exact hf _

/-- The length of a block is checked before its range (20_memory.md R56). -/
theorem takesFault_blockOperand {addr : Addr} {len : Len} {f : List Byte → Except FaultCode State}
    (hf : ∀ v, TakesFault s (runCommand s (f v)) c) :
    TakesFault s (runCommand s (blockOperand s addr len >>= f))
      (if len.val > 16 then some 2 else if addr.toNat + len.val > 256 then some 9 else c) := by
  rw [blockOperand, bind_assoc]
  exact takesFault_blockLength hrun fun _ => takesFault_memRead hrun hf

/-- The length of a key is checked before its range (43_keyschedule.md R187). -/
theorem takesFault_keyOperand {addr : Addr} {len : Len} {f : List Byte → Except FaultCode State}
    (hf : ∀ v, TakesFault s (runCommand s (f v)) c) :
    TakesFault s (runCommand s (keyOperand s addr len >>= f))
      (if len.val * 8 ≠ s.ctrl.ks.keyBits then some 3 else if addr.toNat + len.val > 256 then some 9 else c) := by
  rw [keyOperand]
  split
  · exact runCommand_error hrun .keyLength
  · exact takesFault_memRead hrun hf

theorem takesFault_roundKeyOperand {k : Nat} {f : Matrix → Except FaultCode State}
    (hf : ∀ m, TakesFault s (runCommand s (f m)) c) :
    TakesFault s (runCommand s (roundKeyOperand s k >>= f)) (if k > s.ctrl.ks.nr then some 10 else c) := by
  split
  next hbeyond =>
    rw [roundKeyOperand_of_beyond hbeyond]
    exact runCommand_error hrun .operandRange
  next hle =>
    rw [roundKeyOperand_bind_of_le (Nat.le_of_not_lt hle)]
    exact hf _

theorem takesFault_keySizeOperand {imm : BitVec 16} {f : KeySize → Except FaultCode State}
    (hf : ∀ ks, TakesFault s (runCommand s (f ks)) c) :
    TakesFault s (runCommand s (keySizeOperand imm >>= f)) (if imm.toNat % 4 = 3 then some 4 else c) := by
  split
  next hthree =>
    rw [keySizeOperand_of_three hthree]
    exact runCommand_error hrun .keyParam
  next hne =>
    have hlt : imm.toNat % 4 < 3 := by omega
    rw [keySizeOperand_of_eq ⟨_, hlt⟩ rfl]
    exact hf _

theorem takesFault_chainModeOperand {imm : BitVec 16} {f : ChainMode → Except FaultCode State}
    (hf : ∀ mode, TakesFault s (runCommand s (f mode)) c) :
    TakesFault s (runCommand s (chainModeOperand imm >>= f)) (if imm.toNat / 4 % 8 > 3 then some 5 else c) := by
  split
  next hgt =>
    rw [chainModeOperand_of_gt hgt]
    exact runCommand_error hrun .chainMode
  next hle =>
    have hlt : imm.toNat / 4 % 8 < 4 := by omega
    rw [chainModeOperand_of_eq ⟨_, hlt⟩ rfl]
    exact hf _

/-- A store is a command's last check; `p` is the range check as R235 writes it. -/
theorem takesFault_memWrite {addr : Addr} {v : List Byte} {p : Prop} [Decidable p]
    (hp : p ↔ 256 < addr.toNat + v.length) :
    TakesFault s (runCommand s (memWrite s addr v)) (if p then some 9 else none) := by
  split
  next hbeyond => exact runCommand_memWrite_of_beyond hrun (hp.mp hbeyond)
  next hle =>
    rw [memWrite_of_le (Nat.le_of_not_lt (mt hp.mpr hle))]
    exact takesFault_ok hrun rfl rfl

/-- One byte at an 8-bit address is always inside DMEM. -/
theorem takesFault_memWrite_byte {addr : Addr} {b : Byte} : TakesFault s (runCommand s (memWrite s addr [b])) none := by
  rw [memWrite_of_le (show addr.toNat + [b].length ≤ 256 from addr.isLt)]
  exact takesFault_ok hrun rfl rfl

/-- Each command makes the checks of its row of R235, in their order. -/
theorem takesFault_faultOf (i : Instr) : TakesFault s (exec i s) (faultOf i s) := by
  cases i with
  | nop | gfLi | gfMov | gfAdd | gfDeg | gfMul | gfXgcd | gfInv | gfCmp | gfLdb | seedLo | seedHi | sbBuild | stGet
  | shiftrows | ishiftrows | mixcols | imixcols | chInit => exact takesFault_ok hrun rfl rfl
  | gfDiv | gfRem => exact takesFault_divisor hrun rfl
  | gfStb => exact takesFault_byteOperand hrun fun _ => takesFault_memWrite_byte hrun
  | sbFwd | sbInv =>
    exact takesFault_needBox hrun (takesFault_byteOperand hrun fun _ => takesFault_ok hrun rfl rfl)
  | sbAff | sbBrev | stSet => exact takesFault_byteOperand hrun fun _ => takesFault_ok hrun rfl rfl
  | stLd | arkm => exact takesFault_blockOperand hrun fun _ => takesFault_ok hrun rfl rfl
  | stSt =>
    refine takesFault_blockLength hrun fun hle => takesFault_memWrite hrun ?_
    rw [length_flatBytes s.matrix hle]
  | subbytes | isubbytes => exact takesFault_needBox hrun (takesFault_ok hrun rfl rfl)
  | ark =>
    exact takesFault_needKey hrun (takesFault_roundKeyOperand hrun fun _ => takesFault_ok hrun rfl rfl)
  | cfg =>
    exact takesFault_keySizeOperand hrun fun _ => takesFault_chainModeOperand hrun fun _ => takesFault_ok hrun rfl rfl
  | kexp => exact takesFault_needBox hrun (takesFault_keyOperand hrun fun _ => takesFault_ok hrun rfl rfl)
  | rkSt =>
    refine takesFault_needKey hrun (takesFault_roundKeyOperand hrun fun _ => takesFault_memWrite hrun ?_)
    rw [Vector.length_toList]
  | encb | decb | chEnc | chDec => exact takesFault_needKey hrun (takesFault_ok hrun rfl rfl)
  | chSt =>
    refine takesFault_memWrite hrun ?_
    rw [Vector.length_toList]
    omega

end

/-- Settles O12: `TakesFault` at the code of `faultOf` is the statement. -/
theorem everyCommandCompletesOrTakesItsFault : Obligations.EveryCommandCompletesOrTakesItsFault :=
  fun i _ hrun => takesFault_faultOf hrun i

/-! ### `NOP` (60_exceptions.md R246) -/

theorem exec_nop (s : State) : exec .nop s = .next s := by
  cases herr : s.status.err with
  | true => exact exec_of_halted herr .nop
  | false => exact runCommand_ok herr s

/-- The one row with opcode 0x00 has the whole word in its mask, so it matches the word 0 alone. -/
theorem eq_zero_of_match_of_opcode_zero {w : CommandWord} {r : Row} (hr : r ∈ commandRows)
    (hmatch : w &&& r.mask = r.bits) (hop : w.extractLsb' 24 8 = 0) : w = 0 := by
  have hzero : ∀ q ∈ commandRows, q.bits.extractLsb' 24 8 = 0 → q.mask = BitVec.allOnes 32 ∧ q.bits = 0 := by
    decide
  obtain ⟨hmask, hbits⟩ := hzero r hr ((opcode_of_match hr hmatch).symm.trans hop)
  rwa [hmask, hbits, BitVec.and_allOnes] at hmatch

/-- Settles O18: a word that is not 0 and has opcode 0x00 matches no row. -/
theorem nopChangesNothing : Obligations.NopChangesNothing :=
  ⟨decodes_of_encode .nop rfl rfl, exec_nop, fun _ _ hrun hop hne =>
    issueWord_of_no_match hrun fun _ hr hmatch => hne (eq_zero_of_match_of_opcode_zero hr hmatch hop)⟩

end Sys2Proof.Machine

/-! PROOFS of the family 70_reset_and_hazards.md. First the unreadable contents of a state, and what each part of a
command makes of two states that differ in them alone; then what a step makes of them; then the command word and the
reset input as the host's next action. The obligations are O17, O6 and O8. -/

namespace Sys2Proof.Machine

open Sys2Proof Sys2Proof.Stated

/-! ### Two states that differ only in unreadable contents (10_state.md R29, R30) -/

/-- `s` with other tables and other round keys. -/
def State.withHidden (s : State) (fwd inv : Table) (rk : RoundKeys) : State := (s.writeBox fwd inv).writeRoundKeys rk

theorem eq_withHidden_of_sameReadable {s t : State} (h : SameReadable s t) : t = s.withHidden t.fwd t.inv t.rk :=
  (congrArg (fun u => State.withHidden u t.fwd t.inv t.rk) h.rest :)

/-- The host's ports show no table and no round key (10_state.md R35; 20_memory.md R61; 60_exceptions.md R236). -/
theorem ports_eq_of_sameReadable {s t : State} (h : SameReadable s t) :
    (∀ k, t.readPort k = s.readPort k) ∧ (∀ a, t.hostReadDmem a = s.hostReadDmem a) ∧ t.faultLine = s.faultLine := by
  rw [eq_withHidden_of_sameReadable h]
  exact ⟨fun _ => rfl, fun _ => rfl, rfl⟩

/-- Both outcomes are next states, and the two states differ only in unreadable contents. -/
def SameOutcome (o o' : Outcome) : Prop := ∃ s t, o = .next s ∧ o' = .next t ∧ SameReadable s t

theorem SameOutcome.next {s t : State} (h : SameReadable s t) : SameOutcome (.next s) (.next t) := ⟨s, t, rfl, rfl, h⟩

/-! ### The cipher reads only the round keys up to Nr (44_cipher.md R200, R201) -/

section
variable {rk rk' : RoundKeys} {nr : Nat} (hkeys : ∀ k ≤ nr, roundKey rk' k = roundKey rk k)
include hkeys

theorem encryptRounds_congr (fwd : Table) {n : Nat} (hn : n ≤ nr) (m : Matrix) :
    encryptRounds rk' fwd n m = encryptRounds rk fwd n m := by
  induction n with
  | zero => rfl
  | succ n ih => simp only [encryptRounds, encryptRound, ih (by omega), hkeys _ hn]

theorem decryptRounds_congr (inv : Table) {n : Nat} (hn : n ≤ nr) (m : Matrix) :
    decryptRounds rk' inv n m = decryptRounds rk inv n m := by
  induction n generalizing m with
  | zero => rfl
  | succ n ih => simp only [decryptRounds, decryptRound, ih (by omega), hkeys _ hn]

theorem encrypt_congr (fwd : Table) (m : Matrix) : encrypt rk' fwd nr m = encrypt rk fwd nr m := by
  simp only [encrypt, encryptRounds_congr hkeys fwd (Nat.sub_le nr 1), hkeys 0 (Nat.zero_le nr), hkeys nr le_rfl]

theorem decrypt_congr (inv : Table) (m : Matrix) : decrypt rk' inv nr m = decrypt rk inv nr m := by
  simp only [decrypt, decryptRounds_congr hkeys inv (Nat.sub_le nr 1), hkeys 0 (Nat.zero_le nr), hkeys nr le_rfl]

end

/-- The inverse construction writes every entry, so nothing is left of the table that stood there (41_sbox.md R134). -/
theorem buildInverse_eq_buildInverse {fwd : Table} (hfwd : Function.Injective (Table.lookup fwd)) (old old' : Table) :
    buildInverse fwd old' = buildInverse fwd old := by
  have hlookup : ∀ b, Table.lookup (buildInverse fwd old') b = Table.lookup (buildInverse fwd old) b := fun b => by
    obtain ⟨x, rfl⟩ := Finite.injective_iff_surjective.mp hfwd b
    rw [lookup_buildInverse hfwd, lookup_buildInverse hfwd]
  refine Vector.ext fun i hi => ?_
  simpa [Table.lookup, Nat.mod_eq_of_lt hi] using hlookup (BitVec.ofNat 8 i)

/-! ### The parts of a command on two such states (70_reset_and_hazards.md R265, R266) -/

/-- New tables come with SBV = 1 and KV = 0: they must be the same in both states, and no round key is readable. -/
theorem sameReadable_markBoxBuilt (s : State) (fwd inv : Table) (rk : RoundKeys) {newFwd newInv newInv' : Table}
    (hinv : newInv' = newInv) :
    SameReadable (s.writeBox newFwd newInv).markBoxBuilt
      ((s.withHidden fwd inv rk).writeBox newFwd newInv').markBoxBuilt :=
  ⟨rfl, fun _ => ⟨rfl, hinv⟩, fun hkv => absurd hkv Bool.false_ne_true⟩

section
variable {s : State} {fwd inv : Table} {rk : RoundKeys} (h : SameReadable s (s.withHidden fwd inv rk))
include h

/-- New round keys come with KV = 1: up to Nr they must be the same in both states. -/
theorem sameReadable_expandKey {new new' : RoundKeys}
    (hnew : ∀ k ≤ s.ctrl.ks.nr, roundKey new' k = roundKey new k) :
    SameReadable (s.writeRoundKeys new).markKeyExpanded
      ((s.withHidden fwd inv rk).writeRoundKeys new').markKeyExpanded :=
  ⟨rfl, h.box, fun _ => hnew⟩

theorem sameOutcome_ok {u v : State} (huv : SameReadable u v) :
    SameOutcome (runCommand s (.ok u)) (runCommand (s.withHidden fwd inv rk) (.ok v)) := by
  cases herr : s.status.err with
  | true =>
    rw [runCommand_of_halted herr, runCommand_of_halted (s := s.withHidden fwd inv rk) herr]
    exact .next h
  | false =>
    rw [runCommand_ok herr, runCommand_ok (s := s.withHidden fwd inv rk) herr]
    exact .next huv

theorem sameOutcome_error (f : FaultCode) :
    SameOutcome (runCommand s (.error f)) (runCommand (s.withHidden fwd inv rk) (.error f)) := by
  cases herr : s.status.err with
  | true =>
    rw [runCommand_of_halted herr, runCommand_of_halted (s := s.withHidden fwd inv rk) herr]
    exact .next h
  | false =>
    rw [runCommand_error herr, runCommand_error (s := s.withHidden fwd inv rk) herr]
    exact .next ⟨rfl, h.box, h.keys⟩

/-- A check or an operand that is the same in both states is followed by the rest of the command in both, or its fault
is taken in both. -/
theorem sameOutcome_bind {α : Type} {x : Except FaultCode α} {f g : α → Except FaultCode State}
    (hfg : ∀ a, x = .ok a → SameOutcome (runCommand s (f a)) (runCommand (s.withHidden fwd inv rk) (g a))) :
    SameOutcome (runCommand s (x >>= f)) (runCommand (s.withHidden fwd inv rk) (x >>= g)) := by
  cases x with
  | error e => exact sameOutcome_error h e
  | ok a => exact hfg a rfl

theorem sameOutcome_divisor {b : Reg} {u v : State} (huv : SameReadable u v) :
    SameOutcome (runCommand s (if s.poly b = 0 then .error .divZero else .ok u))
      (runCommand (s.withHidden fwd inv rk) (if s.poly b = 0 then .error .divZero else .ok v)) := by
  split
  · exact sameOutcome_error h .divZero
  · exact sameOutcome_ok h huv

theorem sameOutcome_memWrite (addr : Addr) (v : List Byte) :
    SameOutcome (runCommand s (memWrite s addr v))
      (runCommand (s.withHidden fwd inv rk) (memWrite (s.withHidden fwd inv rk) addr v)) := by
  rcases Nat.lt_or_ge 256 (addr.toNat + v.length) with hbeyond | hle
  · rw [memWrite_of_beyond hbeyond, memWrite_of_beyond hbeyond]
    exact sameOutcome_error h .dmemRange
  · rw [memWrite_of_le hle, memWrite_of_le hle]
    exact sameOutcome_ok h ⟨rfl, h.box, h.keys⟩

/-- With the check of the box passed the two states have the same tables. -/
theorem sameOutcome_needBox {f g : Unit → Except FaultCode State}
    (hfg : s.status.sbv = true → fwd = s.fwd → inv = s.inv →
      SameOutcome (runCommand s (f ())) (runCommand (s.withHidden fwd inv rk) (g ()))) :
    SameOutcome (runCommand s (needBox s >>= f))
      (runCommand (s.withHidden fwd inv rk) (needBox (s.withHidden fwd inv rk) >>= g)) :=
  sameOutcome_bind h fun _ hbox =>
    have hsbv := sbv_of_needBox hbox
    hfg hsbv (h.box hsbv).1 (h.box hsbv).2

/-- With the check of the key passed the two states have the same round keys up to Nr. -/
theorem sameOutcome_needKey {f g : Unit → Except FaultCode State}
    (hfg : s.status.kv = true → (∀ k ≤ s.ctrl.ks.nr, roundKey rk k = roundKey s.rk k) →
      SameOutcome (runCommand s (f ())) (runCommand (s.withHidden fwd inv rk) (g ()))) :
    SameOutcome (runCommand s (needKey s >>= f))
      (runCommand (s.withHidden fwd inv rk) (needKey (s.withHidden fwd inv rk) >>= g)) := by
  refine sameOutcome_bind h fun _ hkey => ?_
  cases hkv : s.status.kv with
  | true => exact hfg hkv (h.keys hkv)
  | false => rw [needKey_of_unexpanded hkv] at hkey; cases hkey

theorem sameOutcome_roundKeyOperand (hkeys : ∀ k ≤ s.ctrl.ks.nr, roundKey rk k = roundKey s.rk k) {k : Nat}
    {f g : Matrix → Except FaultCode State}
    (hfg : ∀ m, SameOutcome (runCommand s (f m)) (runCommand (s.withHidden fwd inv rk) (g m))) :
    SameOutcome (runCommand s (roundKeyOperand s k >>= f))
      (runCommand (s.withHidden fwd inv rk) (roundKeyOperand (s.withHidden fwd inv rk) k >>= g)) := by
  have heq : roundKeyOperand (s.withHidden fwd inv rk) k = roundKeyOperand s k := by
    rcases Nat.lt_or_ge s.ctrl.ks.nr k with hbeyond | hle
    · rw [roundKeyOperand_of_beyond hbeyond, roundKeyOperand_of_beyond (s := s.withHidden fwd inv rk) hbeyond]
    · rw [roundKeyOperand_of_le hle, roundKeyOperand_of_le (s := s.withHidden fwd inv rk) hle]
      exact congrArg Except.ok (hkeys k hle)
  rw [heq]
  exact sameOutcome_bind h fun m _ => hfg m

end

/-! ### A command on two such states -/

/-- With KV = 1 the block functions of the two states are the same: they have the same tables, since SBV = 1 with it
(10_state.md R34 (a)), and the same round keys up to Nr. -/
theorem blockFunctions_eq_of_sameReadable {s t : State} (h : SameReadable s t) (hbox : s.status.sbv = true)
    (hkey : s.status.kv = true) : t.encryptMatrix = s.encryptMatrix ∧ t.decryptMatrix = s.decryptMatrix := by
  have hctrl : t.ctrl = s.ctrl := (congrArg State.ctrl h.rest :)
  obtain ⟨hfwd, hinv⟩ := h.box hbox
  constructor <;> funext m
  · rw [State.encryptMatrix, State.encryptMatrix, hfwd, hctrl, encrypt_congr (h.keys hkey)]
  · rw [State.decryptMatrix, State.decryptMatrix, hinv, hctrl, decrypt_congr (h.keys hkey)]

theorem chainEncrypt_eq_of_sameReadable {s t : State} (h : SameReadable s t) (hbox : s.status.sbv = true)
    (hkey : s.status.kv = true) (x : Block) : t.chainEncrypt x = s.chainEncrypt x := by
  have hctrl : t.ctrl = s.ctrl := (congrArg State.ctrl h.rest :)
  have hchain : t.chain = s.chain := (congrArg State.chain h.rest :)
  simp only [State.chainEncrypt, State.encryptBlock, (blockFunctions_eq_of_sameReadable h hbox hkey).1, hctrl, hchain]

theorem chainDecrypt_eq_of_sameReadable {s t : State} (h : SameReadable s t) (hbox : s.status.sbv = true)
    (hkey : s.status.kv = true) (x : Block) : t.chainDecrypt x = s.chainDecrypt x := by
  have hctrl : t.ctrl = s.ctrl := (congrArg State.ctrl h.rest :)
  have hchain : t.chain = s.chain := (congrArg State.chain h.rest :)
  obtain ⟨henc, hdec⟩ := blockFunctions_eq_of_sameReadable h hbox hkey
  simp only [State.chainDecrypt, State.encryptBlock, State.decryptBlock, henc, hdec, hctrl, hchain]

/-- Each command reads the tables after the check of the box and the round keys after the check of the key
(70_reset_and_hazards.md R265, R266), and what it writes to them is the same in both states where it can be read. -/
theorem sameOutcome_exec {s t : State} (h : SameReadable s t) (hkeyNeedsBox : s.status.kv = true → s.status.sbv = true)
    (i : Instr) : SameOutcome (exec i s) (exec i t) := by
  have ht := eq_withHidden_of_sameReadable h
  generalize t.fwd = fwd, t.inv = inv, t.rk = rk at ht
  subst ht
  cases i with
  | nop => exact sameOutcome_ok h h
  | gfLi | gfMov | gfAdd | gfDeg | gfMul | gfXgcd | gfInv | gfCmp | gfLdb | seedLo | seedHi | stGet | shiftrows
  | ishiftrows | mixcols | imixcols | chInit => exact sameOutcome_ok h ⟨rfl, h.box, h.keys⟩
  | gfDiv | gfRem => exact sameOutcome_divisor h ⟨rfl, h.box, h.keys⟩
  | gfStb => exact sameOutcome_bind h fun _ _ => sameOutcome_memWrite h _ _
  | sbBuild =>
    have hfwd := lookup_buildForward_injective (lookup_permutationOf_injective (Config.draw s.seed))
    exact sameOutcome_ok h (sameReadable_markBoxBuilt s fwd inv rk (buildInverse_eq_buildInverse hfwd s.inv inv))
  | sbFwd | sbInv =>
    refine sameOutcome_needBox h fun _ hfwd hinv => ?_
    subst hfwd hinv
    exact sameOutcome_bind h fun _ _ => sameOutcome_ok h ⟨rfl, h.box, h.keys⟩
  | sbAff | sbBrev | stSet | stLd | arkm => exact sameOutcome_bind h fun _ _ => sameOutcome_ok h ⟨rfl, h.box, h.keys⟩
  | stSt => exact sameOutcome_bind h fun _ _ => sameOutcome_memWrite h _ _
  | subbytes | isubbytes =>
    refine sameOutcome_needBox h fun _ hfwd hinv => ?_
    subst hfwd hinv
    exact sameOutcome_ok h ⟨rfl, h.box, h.keys⟩
  | ark =>
    exact sameOutcome_needKey h fun _ hkeys => sameOutcome_roundKeyOperand h hkeys fun _ =>
      sameOutcome_ok h ⟨rfl, h.box, h.keys⟩
  | cfg =>
    exact sameOutcome_bind h fun _ _ => sameOutcome_bind h fun _ _ =>
      sameOutcome_ok h ⟨rfl, h.box, fun hkv => absurd hkv Bool.false_ne_true⟩
  | kexp =>
    refine sameOutcome_needBox h fun _ hfwd hinv => ?_
    subst hfwd hinv
    exact sameOutcome_bind h fun _ _ => sameOutcome_ok h (sameReadable_expandKey h fun _ hk =>
      (roundKey_expandInto _ _ _ _ _ hk).trans (roundKey_expandInto _ _ _ _ _ hk).symm)
  | rkSt =>
    exact sameOutcome_needKey h fun _ hkeys => sameOutcome_roundKeyOperand h hkeys fun _ => sameOutcome_memWrite h _ _
  | encb | decb | chEnc | chDec =>
    refine sameOutcome_needKey h fun hkv _ => ?_
    have hbox := hkeyNeedsBox hkv
    obtain ⟨henc, hdec⟩ := blockFunctions_eq_of_sameReadable h hbox hkv
    simp only [henc, hdec, chainEncrypt_eq_of_sameReadable h hbox hkv, chainDecrypt_eq_of_sameReadable h hbox hkv]
    exact sameOutcome_ok h ⟨rfl, h.box, h.keys⟩
  | chSt => exact sameOutcome_memWrite h _ _

/-! ### A step of two such states (70_reset_and_hazards.md R261, R264) -/

theorem sameOutcome_issueWord {s t : State} (h : SameReadable s t)
    (hkeyNeedsBox : s.status.kv = true → s.status.sbv = true) (w : CommandWord) :
    SameOutcome (issueWord w s) (issueWord w t) := by
  rw [issueWord, issueWord]
  cases decodeWord w with
  | ok i => exact sameOutcome_exec h hkeyNeedsBox i
  | error e =>
    have ht := eq_withHidden_of_sameReadable h
    rw [ht] at h ⊢
    exact sameOutcome_error h .illegalCmd

theorem sameOutcome_hostAct {s t : State} (h : SameReadable s t)
    (hkeyNeedsBox : s.status.kv = true → s.status.sbv = true) (a : HostAction) :
    SameOutcome (hostAct a s) (hostAct a t) := by
  cases a with
  | reset =>
    exact .next ⟨(congrArg applyReset h.rest :), fun hsbv => absurd hsbv Bool.false_ne_true,
      fun hkv => absurd hkv Bool.false_ne_true⟩
  | command w => exact sameOutcome_issueWord h hkeyNeedsBox w
  | writeDmem addr b => exact .next ⟨(congrArg (hostWriteDmem addr b) h.rest :), h.box, h.keys⟩
  | readDmem | readPort => exact .next h

theorem sameOutcome_step {s t : State} (h : SameReadable s t)
    (hkeyNeedsBox : s.status.kv = true → s.status.sbv = true) : SameOutcome (step s) (step t) := by
  have hhost : t.host = s.host := (congrArg State.host h.rest :)
  rw [step, step, hhost]
  cases s.host with
  | nil => exact .next h
  | cons a rest =>
    have hrest : SameReadable (s.writeHost rest) (t.writeHost rest) :=
      ⟨(congrArg (State.writeHost · rest) h.rest :), h.box, h.keys⟩
    exact sameOutcome_hostAct hrest hkeyNeedsBox a

/-- Settles O17: every step takes two such states to two such states, and the ports show no difference. -/
theorem unreadableContentsAreNeverObserved : Obligations.UnreadableContentsAreNeverObserved := by
  intro s t s' t' h hkeyNeedsBox hs ht
  obtain ⟨u, v, hu, hv, huv⟩ := sameOutcome_step h hkeyNeedsBox
  obtain rfl : s' = u := Host.Outcome.next.inj (hs.symm.trans hu)
  obtain rfl : t' = v := Host.Outcome.next.inj (ht.symm.trans hv)
  exact ⟨huv, ports_eq_of_sameReadable huv⟩

/-! ### The command word and the reset input as the host's next action (70_reset_and_hazards.md R260, R264) -/

theorem issueWord_of_decodes {w : CommandWord} {i : Instr} (h : decodeWord w = .ok i) (s : State) :
    issueWord w s = exec i s := by rw [issueWord, h]

/-- A command read from the table is what the low bits of the word decode to (30_encoding.md R70, R76). -/
theorem decodeWord_of_decodeTableWord {nbits w : Nat} {i : Instr} (h : decodeTableWord nbits w = some i) :
    decodeWord (BitVec.ofNat 32 (w % 2 ^ nbits)) = .ok i := by
  rw [decodeTableWord] at h
  split at h
  next j hj => cases h; exact hj
  next => cases h

/-- Settles O6: the host's next action is taken from the pending ones, and a word that decodes runs its command. -/
theorem stepRunsTheDecodedCommand : Obligations.StepRunsTheDecodedCommand := by
  refine ⟨fun s w rest i hhost hdecode => ?_, fun s nbits w i hdecode => ?_, fun s hhost => ?_⟩
  · exact (step_of_host hhost).trans (issueWord_of_decodes hdecode _)
  · exact (step_of_host (State.withFetchWord_host s nbits w)).trans
      (issueWord_of_decodes (decodeWord_of_decodeTableWord hdecode) _)
  · rw [step, hhost]

/-- Settles O8: the reset input leaves the registers, CTRL, STATUS and SEED of `State.reset`, whose values
`resetValues` gives, and does not write DMEM. -/
theorem resetInputLeavesTheHaltedState : Obligations.ResetInputLeavesTheHaltedState := by
  intro s rest hhost
  obtain ⟨hp, hmatrix, hchain, hctrl, hstatus, hseed, -⟩ := resetValues
  exact ⟨applyReset (s.writeHost rest), step_of_host hhost, hp, hmatrix, hchain, hctrl, hstatus, hseed,
    congrArg Status.err hstatus, fun _ => rfl, rfl⟩

end Sys2Proof.Machine
